-- ==== Sys2Proof/Word.lean ====
section
/-!
DEFINITION. Words, port levels and their plainest names.

The block moves two words only (R60): the 4-bit DataBlock and the 8-bit Codeword. A port bit is a physical
level, and a level may be neither 0 nor 1 (R134), so the ports hold levels and the units compute on words.
-/

namespace Sys2Proof

/-- The DB format on a bus: `{D1, D2, D3, D4}`, D1 in bit 3 (R60, R61). -/
abbrev DataBlock := BitVec 4

/-- The CW format on a bus: `{P, H1, H2, H3, D1, D2, D3, D4}`, P in bit 7 (R60, R62). -/
abbrev Codeword := BitVec 8

/-- The level of one port bit: 0, 1, or neither (undriven, floating, unknown: R134). -/
inductive Level where
  | low
  | high
  | other
  deriving DecidableEq, Repr, Inhabited

/-- The levels of a 4-bit port (`enc_d`, `dec_q`), by field name in position order (R22, R61). -/
structure DbLevels where
  d1 : Level
  d2 : Level
  d3 : Level
  d4 : Level
  deriving DecidableEq, Repr, Inhabited

/-- The levels of an 8-bit port (`enc_c`, `dec_r`), by field name in position order (R22, R62). -/
structure CwLevels where
  p  : Level
  h1 : Level
  h2 : Level
  h3 : Level
  d1 : Level
  d2 : Level
  d3 : Level
  d4 : Level
  deriving DecidableEq, Repr, Inhabited

/-- The two units of the core (R3). The unit, not an opcode, selects the operation (R65). -/
inductive UnitId where
  | enc
  | dec
  deriving DecidableEq, Repr

/-- The textual form of a word: one character per position, position 0 first (R63). -/
abbrev Text := List Char

/-- A position index of a codeword, 0 (P) to 7 (D4). Position `i` is bus bit `7 - i` (R12). -/
abbrev Position := Fin 8

end Sys2Proof
end

