-- ==== Sys2Proof/Syntax.lean ====
section
/-!
DEFINITION. The two operations of spec/opcode_table.json (R65).

An operation's only operand is the whole word on its unit's input port (R43, R64). The operand is given as port
levels, so that a port bit that is neither 0 nor 1 (R134) is an operand too, and not only the 16 and 256 legal
binary values (R66).
-/

namespace Sys2Proof

/-- One constructor per row of spec/opcode_table.json. -/
inductive Instr where
  /-- ENCODE: the ENC unit on `enc_d` (R80). -/
  | encode (d : DbLevels)
  /-- DECODE: the DEC unit on `dec_r` (R100). -/
  | decode (r : CwLevels)
  deriving DecidableEq, Repr

/-- The unit that performs an operation (R65). -/
def Instr.unit : Instr → UnitId
  | .encode _ => .enc
  | .decode _ => .dec

/-- The width in bits of a unit's input port (R22, R69). -/
def UnitId.operandWidth : UnitId → Nat
  | .enc => 4
  | .dec => 8

end Sys2Proof
end

