-- ==== Sys2Proof/WellFormed.lean ====
section
/-!
DEFINITION. Well-formed operations: every bit of the operand is 0 or 1.

The host must drive each input port with a binary value (R152); every binary value is legal (R66). An operation
that is not well formed still runs: its unit's output is then unspecified (R134).
-/

namespace Sys2Proof

/-- A level that is 0 or 1. -/
def Level.binary : Level → Bool
  | .low => true
  | .high => true
  | .other => false

/-- Every bit of a 4-bit port is 0 or 1. -/
def DbLevels.binary (l : DbLevels) : Bool :=
  l.d1.binary && l.d2.binary && l.d3.binary && l.d4.binary

/-- Every bit of an 8-bit port is 0 or 1. -/
def CwLevels.binary (l : CwLevels) : Bool :=
  l.p.binary && l.h1.binary && l.h2.binary && l.h3.binary &&
    l.d1.binary && l.d2.binary && l.d3.binary && l.d4.binary

/-- The host's duty towards an operation's operand (R152). -/
def Instr.wellFormed : Instr → Bool
  | .encode d => d.binary
  | .decode r => r.binary

end Sys2Proof
end

