-- ==== Sys2Proof/Decode.lean ====
section
/-!
DEFINITION. From the textual form of a call to an operation, and back.

The block decodes no instruction words: a unit's port selects the operation (R65), and any binary value of the
port's width is an operand (R66). What has to be decoded is the text a host starts from (R63, R70), and it is
checked at the host boundary (R130, R131): a wrong length or a symbol other than 0 and 1 is rejected as
`InvalidInputShape`, naming the input (R132). The encoder after it writes an operation's text.
-/

namespace Sys2Proof

/-- The one error class (R130). It carries the rejected input (R132) and no numeric code. -/
inductive Rejection where
  | invalidInputShape (input : Text)
  deriving DecidableEq, Repr

/-- The level that one symbol of a text asks for (R63). -/
def symbolLevel (c : Char) : Level :=
  if c = '0' then .low else if c = '1' then .high else .other

/-- The symbol of a level (R63). DESIGN CHOICE (log 6): a level that is neither 0 nor 1 is written 'x', a
non-binary symbol, the textual counterpart that R134 names. -/
def levelSymbol : Level → Char
  | .low => '0'
  | .high => '1'
  | .other => 'x'

/-- The symbol test of `host_encode` and `host_decode` (R131). -/
def symbolBinary (c : Char) : Bool := c == '0' || c == '1'

/-- The shape check of R131: the exact length, and only the symbols 0 and 1. -/
def shapeOk (n : Nat) (t : Text) : Bool := t.length == n && t.all symbolBinary

/-- The level at position `i` of a text (R63); past its end nothing is driven. -/
def levelAt (t : Text) (i : Nat) : Level :=
  match t[i]? with
  | some c => symbolLevel c
  | none => .other

/-- `bits(s)` for a DB text: character `i` is position `i` (R61, R63). -/
def dbOfText (t : Text) : DbLevels :=
  { d1 := levelAt t 0, d2 := levelAt t 1, d3 := levelAt t 2, d4 := levelAt t 3 }

/-- `bits(s)` for a CW text: character `i` is position `i` (R62, R63). -/
def cwOfText (t : Text) : CwLevels :=
  { p := levelAt t 0, h1 := levelAt t 1, h2 := levelAt t 2, h3 := levelAt t 3,
    d1 := levelAt t 4, d2 := levelAt t 5, d3 := levelAt t 6, d4 := levelAt t 7 }

/-- `text(bus)` of a 4-bit port, position 0 first (R61, R63). -/
def dbText (l : DbLevels) : Text := [l.d1, l.d2, l.d3, l.d4].map levelSymbol

/-- `text(bus)` of an 8-bit port, position 0 first (R62, R63). -/
def cwText (l : CwLevels) : Text :=
  [l.p, l.h1, l.h2, l.h3, l.d1, l.d2, l.d3, l.d4].map levelSymbol

/-- The decoder: a call on unit `u` with text `t` is an operation, or is rejected by name (R131, R132). -/
def decode (u : UnitId) (t : Text) : Except Rejection Instr :=
  match u with
  | .enc => if shapeOk 4 t then .ok (.encode (dbOfText t)) else .error (.invalidInputShape t)
  | .dec => if shapeOk 8 t then .ok (.decode (cwOfText t)) else .error (.invalidInputShape t)

/-- The encoder: the unit and the text of an operation (R63, R65). -/
def encode : Instr → UnitId × Text
  | .encode d => (.enc, dbText d)
  | .decode r => (.dec, cwText r)

/-- The text of the `n` low bits of `w`, most significant first: a bus value read as a numeral (R63). -/
def textOfNat : Nat → Nat → Text
  | 0, _ => []
  | n + 1, w => (if w.testBit n then '1' else '0') :: textOfNat n w

/-- A text read from left to right as a binary numeral (R63). -/
def textNumeral (t : Text) : Nat :=
  t.foldl (fun n c => 2 * n + (if c = '1' then 1 else 0)) 0

/-- The unit a word of a given width is for: the input's length is set by the port (R69). -/
def unitOfWidth (nbits : Nat) : UnitId := if nbits = 4 then .enc else .dec

/-- The operation of a word of the opcode table: 4 bits are an ENCODE operand, 8 bits a DECODE operand (R69).
Any other width, and a word with bits above its width, is none. DESIGN CHOICE (log 1): the width names the row,
because the rows have no opcode bits (R65). -/
def decodeTableWord (nbits w : Nat) : Option Instr :=
  if w < 2 ^ nbits then
    match decode (unitOfWidth nbits) (textOfNat nbits w) with
    | .ok i => some i
    | .error _ => none
  else none

/-- The letters of a unit's operation in the call form, with the opening bracket and quote (R70). -/
def callHead : UnitId → Text
  | .enc => ['e', 'n', 'c', 'o', 'd', 'e', '(', '"']
  | .dec => ['d', 'e', 'c', 'o', 'd', 'e', '(', '"']

/-- The end of the call form: the closing quote and bracket (R70). -/
def callTail : Text := ['"', ')']

/-- The call form of the source, `encode("1010")` (R70). -/
def printCall (u : UnitId) (t : Text) : Text := callHead u ++ t ++ callTail

/-- What follows the letters `h` at the front of `l`, if they stand there. -/
def afterLetters : Text → Text → Option Text
  | [], l => some l
  | _ :: _, [] => none
  | h :: hs, c :: cs => if h = c then afterLetters hs cs else none

/-- The text between the brackets of a call on unit `u`, if `line` is one (R70). -/
def callOn (u : UnitId) (line : Text) : Option Text :=
  match afterLetters (callHead u) line with
  | none => none
  | some rest =>
    match afterLetters callTail.reverse rest.reverse with
    | none => none
    | some t => some t.reverse

/-- The unit and the text of a line in the call form (R70). -/
def parseCall (line : Text) : Option (UnitId × Text) :=
  match callOn .enc line with
  | some t => some (.enc, t)
  | none =>
    match callOn .dec line with
    | some t => some (.dec, t)
    | none => none

end Sys2Proof
end

