-- ==== Sys2Proof/Config.lean ====
section
/-!
DEFINITION. What is fixed when the block is built, and the values the spec leaves open.

`P_COVERAGE` has two values and a default (R6). The two propagation delays are open parameters (R7, R157), and
an output that has not settled, or whose unit sees a level that is neither 0 nor 1, is any value (R134, R154):
these are opaque constants, so no proof can see a value of them.
-/

namespace Sys2Proof

/-- The build parameter `P_COVERAGE`: which bits the overall parity bit P covers (R6). -/
inductive PCoverage where
  /-- H1, H2, H3, D1, D2, D3 and D4. -/
  | all7
  /-- D1, D2, D3 and D4 only. -/
  | data4
  deriving DecidableEq, Repr

/-- The default of `P_COVERAGE` (R6). -/
def Config.pCoverageDefault : PCoverage := .all7

/-- `T_PD_ENC` less its first unit of time: open (R7, R157). DESIGN CHOICE (log 3): time is counted in units. -/
opaque Config.tPdEncBeyondFirst : Nat

/-- `T_PD_DEC` less its first unit of time: open (R7, R157). DESIGN CHOICE (log 3). -/
opaque Config.tPdDecBeyondFirst : Nat

/-- `T_PD_ENC`, the propagation delay of ENC: some duration above 0 (R7, R157, 92_eei_decisions.md D6).
DESIGN CHOICE (log 17): one constant serves every block, whatever its `P_COVERAGE`. -/
def Config.tPdEnc : Nat := Config.tPdEncBeyondFirst + 1

/-- `T_PD_DEC`, the propagation delay of DEC: some duration above 0 (R7, R157, 92_eei_decisions.md D6).
DESIGN CHOICE (log 17): one constant serves every block, whatever its `P_COVERAGE`. -/
def Config.tPdDec : Nat := Config.tPdDecBeyondFirst + 1

/-- The levels on `enc_c` at the n-th moment, where the spec says "any value" (R134, R154). FREE VALUE (log 4).
DESIGN CHOICE (log 16): one function serves every block, so two blocks at the same moment show the same levels. -/
opaque Config.freeEncC : Nat → CwLevels

/-- The levels on `dec_q` at the n-th moment, where the spec says "any value" (R134, R154). FREE VALUE (log 4).
DESIGN CHOICE (log 16): one function serves every block, so two blocks at the same moment show the same levels. -/
opaque Config.freeDecQ : Nat → DbLevels

end Sys2Proof
end

