-- ==== Sys2Proof/Machine/Operands.lean ====
section
/-!
DEFINITION. Operand assembly: the fields of the two word formats, and the words a port's levels carry.

Each field is one bit, used as it stands (R64). Position `i` of a codeword is bus bit `7 - i`, and position `j`
of a data block is bus bit `3 - j` (R12, R61, R62).
-/

namespace Sys2Proof.Machine

/-- The bit at position `j` of a data block (R12, R61). -/
def dbAt (d : DataBlock) (j : Nat) : Bool := d.getLsbD (3 - j)

/-- The bit at position `i` of a codeword (R12, R62). -/
def cwAt (c : Codeword) (i : Nat) : Bool := c.getLsbD (7 - i)

/-- `{D1, D2, D3, D4}` (R61). -/
def packDb (d1 d2 d3 d4 : Bool) : DataBlock :=
  BitVec.ofBool d1 ++ BitVec.ofBool d2 ++ BitVec.ofBool d3 ++ BitVec.ofBool d4

/-- `{P, H1, H2, H3, D1, D2, D3, D4}` (R62). -/
def packCw (p h1 h2 h3 d1 d2 d3 d4 : Bool) : Codeword :=
  BitVec.ofBool p ++ BitVec.ofBool h1 ++ BitVec.ofBool h2 ++ BitVec.ofBool h3 ++
    BitVec.ofBool d1 ++ BitVec.ofBool d2 ++ BitVec.ofBool d3 ++ BitVec.ofBool d4

/-- The level of a bit value (R10). -/
def bitLevel (b : Bool) : Level := if b then .high else .low

/-- The bit value of a level, if it has one (R134). -/
def levelBit : Level → Option Bool
  | .low => some false
  | .high => some true
  | .other => none

/-- The levels of a data block on a 4-bit port. -/
def dbLevels (d : DataBlock) : DbLevels :=
  { d1 := bitLevel (dbAt d 0), d2 := bitLevel (dbAt d 1), d3 := bitLevel (dbAt d 2), d4 := bitLevel (dbAt d 3) }

/-- The levels of a codeword on an 8-bit port. -/
def cwLevels (c : Codeword) : CwLevels :=
  { p := bitLevel (cwAt c 0), h1 := bitLevel (cwAt c 1), h2 := bitLevel (cwAt c 2), h3 := bitLevel (cwAt c 3),
    d1 := bitLevel (cwAt c 4), d2 := bitLevel (cwAt c 5), d3 := bitLevel (cwAt c 6), d4 := bitLevel (cwAt c 7) }

/-- The data block on a 4-bit port, if every bit is 0 or 1. -/
def dbWord (l : DbLevels) : Option DataBlock :=
  match levelBit l.d1, levelBit l.d2, levelBit l.d3, levelBit l.d4 with
  | some d1, some d2, some d3, some d4 => some (packDb d1 d2 d3 d4)
  | _, _, _, _ => none

/-- The codeword on an 8-bit port, if every bit is 0 or 1. -/
def cwWord (l : CwLevels) : Option Codeword :=
  match levelBit l.p, levelBit l.h1, levelBit l.h2, levelBit l.h3 with
  | some p, some h1, some h2, some h3 =>
    match levelBit l.d1, levelBit l.d2, levelBit l.d3, levelBit l.d4 with
    | some d1, some d2, some d3, some d4 => some (packCw p h1 h2 h3 d1 d2 d3 d4)
    | _, _, _, _ => none
  | _, _, _, _ => none

end Sys2Proof.Machine
end

