-- ==== Sys2Proof/Machine/Flags.lean ====
section
/-!
DEFINITION. The parity bits, and the decoder's internal signals.

There are no architectural flags (R24). `par_ok` and the syndrome are internal signals: no port shows them and
they do not outlive the evaluation.
-/

namespace Sys2Proof.Machine

/-- H1 = D1 ⊕ D2 ⊕ D4 (R81, R103). -/
def hamming1 (d1 d2 d4 : Bool) : Bool := (d1 ^^ d2) ^^ d4

/-- H2 = D1 ⊕ D3 ⊕ D4 (R82, R103). -/
def hamming2 (d1 d3 d4 : Bool) : Bool := (d1 ^^ d3) ^^ d4

/-- H3 = D2 ⊕ D3 ⊕ D4 (R83, R103). -/
def hamming3 (d2 d3 d4 : Bool) : Bool := (d2 ^^ d3) ^^ d4

/-- The overall parity over the bits that `P_COVERAGE` selects (R84, R102). -/
def overallParity (cov : PCoverage) (h1 h2 h3 d1 d2 d3 d4 : Bool) : Bool :=
  match cov with
  | .all7 => (((((h1 ^^ h2) ^^ h3) ^^ d1) ^^ d2) ^^ d3) ^^ d4
  | .data4 => ((d1 ^^ d2) ^^ d3) ^^ d4

/-- Step 1, `par_ok`: the received P equals the parity recomputed from the received word (R102). -/
def parOk (cov : PCoverage) (r : Codeword) : Bool :=
  cwAt r 0 ==
    overallParity cov (cwAt r 1) (cwAt r 2) (cwAt r 3) (cwAt r 4) (cwAt r 5) (cwAt r 6) (cwAt r 7)

/-- Step 2, `s1 = H1 ⊕ H1'`: 1 is a mismatch (R103, R104). -/
def syndrome1 (r : Codeword) : Bool := cwAt r 1 ^^ hamming1 (cwAt r 4) (cwAt r 5) (cwAt r 7)

/-- Step 2, `s2 = H2 ⊕ H2'` (R103, R104). -/
def syndrome2 (r : Codeword) : Bool := cwAt r 2 ^^ hamming2 (cwAt r 4) (cwAt r 6) (cwAt r 7)

/-- Step 2, `s3 = H3 ⊕ H3'` (R103, R104). -/
def syndrome3 (r : Codeword) : Bool := cwAt r 3 ^^ hamming3 (cwAt r 5) (cwAt r 6) (cwAt r 7)

end Sys2Proof.Machine
end

