-- ==== Sys2Proof/Machine/Codec.lean ====
section
/-!
DEFINITION. The functions of the two units on words, and the medium's `flip` on a word.

Only these Boolean functions are normative, not the gates (R87, R106).
-/

namespace Sys2Proof.Machine

/-- The function of the ENC unit (R80 to R86). -/
def encodeWord (cov : PCoverage) (d : DataBlock) : Codeword :=
  let d1 := dbAt d 0
  let d2 := dbAt d 1
  let d3 := dbAt d 2
  let d4 := dbAt d 3
  let h1 := hamming1 d1 d2 d4
  let h2 := hamming2 d1 d3 d4
  let h3 := hamming3 d2 d3 d4
  packCw (overallParity cov h1 h2 h3 d1 d2 d3 d4) h1 h2 h3 d1 d2 d3 d4

/-- Step 3: the first row of the chain that matches (R105); with `par_ok` the data as received (R102). -/
def correct (ok s1 s2 s3 d1 d2 d3 d4 : Bool) : DataBlock :=
  if ok then packDb d1 d2 d3 d4
  else if s1 && s2 && s3 then packDb d1 d2 d3 (!d4)
  else if s1 && s2 then packDb (!d1) d2 d3 d4
  else if s1 && s3 then packDb d1 (!d2) d3 d4
  else if s2 && s3 then packDb d1 d2 (!d3) d4
  else packDb d1 d2 d3 d4

/-- The function of the DEC unit (R100 to R105). -/
def decodeWord (cov : PCoverage) (r : Codeword) : DataBlock :=
  correct (parOk cov r) (syndrome1 r) (syndrome2 r) (syndrome3 r) (cwAt r 4) (cwAt r 5) (cwAt r 6) (cwAt r 7)

/-- `flip(c, i)` of the medium, in bus form: `c ⊕ (1 << (7 - i))` (R71). -/
def flipWord (c : Codeword) (i : Position) : Codeword := c ^^^ (1#8 <<< (7 - i.val))

/-- The inverse of a level; a level that is neither 0 nor 1 stays so. -/
def flipLevel : Level → Level
  | .low => .high
  | .high => .low
  | .other => .other

/-- `flip` on the levels of an 8-bit port: position `i` inverted (R71). -/
def flipLevels (l : CwLevels) (i : Position) : CwLevels :=
  { p := if i = 0 then flipLevel l.p else l.p
    h1 := if i = 1 then flipLevel l.h1 else l.h1
    h2 := if i = 2 then flipLevel l.h2 else l.h2
    h3 := if i = 3 then flipLevel l.h3 else l.h3
    d1 := if i = 4 then flipLevel l.d1 else l.d1
    d2 := if i = 5 then flipLevel l.d2 else l.d2
    d3 := if i = 6 then flipLevel l.d3 else l.d3
    d4 := if i = 7 then flipLevel l.d4 else l.d4 }

/-- The medium on an 8-bit port: a list of positions inverted in turn (R71). Any set of positions may be
inverted, also more than one (92_eei_decisions.md D13). -/
def mediumLevels (ps : List Position) (l : CwLevels) : CwLevels := ps.foldl flipLevels l

/-- The medium on a word (R71). -/
def mediumWord (ps : List Position) (c : Codeword) : Codeword := ps.foldl flipWord c

/-- The inverse of a symbol; a non-binary symbol stays as it is. -/
def flipSymbol (c : Char) : Char := if c = '0' then '1' else if c = '1' then '0' else c

/-- `flip` on a text: character `i` is position `i` (R63, R71). -/
def flipText (t : Text) (i : Position) : Text := t.modify i.val flipSymbol

/-- The medium on a text (R63, R71). -/
def mediumText (ps : List Position) (t : Text) : Text := ps.foldl flipText t

/-- The number of positions where two words differ (R90). -/
def distance (a b : Codeword) : Nat := (List.range 8).countP (fun i => cwAt a i != cwAt b i)

/-- The XOR of all eight bits of a word: 1 for odd weight (R89). -/
def weightParity (c : Codeword) : Bool := (List.range 8).foldl (fun x i => x ^^ cwAt c i) false

end Sys2Proof.Machine
end

