-- ==== Sys2Proof/Machine/State.lean ====
section
/-!
DEFINITION. The state of one block with its host, the reasons a step can stop, and the state at power-up.

The block itself stores nothing (R20): its four ports are all it shows (R22), and an output port follows its
input port. The fields below are the levels now on the four ports, the time each output still needs to settle
(R154), the build parameter (R6), the medium where it joins `enc_c` to `dec_r` (R71, R155), and what the host
holds: its variables and the actions it is about to perform (R70).
-/

namespace Sys2Proof.Machine

/-- Why the machine stops with a fault: never. The core has no way to raise anything (R13, R131), there is no
trap (R137), and both operations always end with a result (R133). Nothing raises a fault; safe. -/
inductive Fault where
  deriving DecidableEq, Repr

/-- Names of values held by the host, not state of the block (R70). -/
inductive HostVar where
  | d
  | c
  | r
  | q
  deriving DecidableEq, Repr

/-- Why a step has no next state. None of these is raised by an operation: they are decided at the host
boundary, before a value reaches a port. -/
inductive Refusal where
  /-- An instruction that has no meaning in the model yet. Raised by no arm of exec. Safe: the machine stops. -/
  | notModelled (mnemonic : String)
  /-- The one error class: a wrong length or a non-binary symbol in the text of a call (R130 to R132). Raised by
  a host call; the rejected input is named and no port is driven. Safe: no result is produced. -/
  | invalidInputShape (input : Text)
  /-- The host uses a variable it has not set. Raised by a host action that reads one. The spec gives such a
  transaction no meaning (log 8). Safe: the run stops. -/
  | unsetVariable (v : HostVar)
  /-- The medium is given a text that is not 8 symbols long, where R71 defines `flip` on a CW only. Raised by the
  host's flip action (log 8). Safe: the run stops. -/
  | notACodeword (input : Text)
  deriving DecidableEq, Repr

/-- The host's variables, each a text or unset (R70, 95_test_vectors.md section 6). -/
structure HostVars where
  d : Option Text
  c : Option Text
  r : Option Text
  q : Option Text
  deriving DecidableEq, Repr

/-- The argument of a host transaction: a text written out, or a variable (R70). -/
inductive HostArg where
  | lit (t : Text)
  | var (v : HostVar)
  deriving DecidableEq, Repr

/-- What the host, or the medium, does next. The host is the only agent that drives and reads ports
(92_eei_decisions.md D13). -/
inductive HostAction where
  /-- `dst := encode(arg)` on ENC or `dst := decode(arg)` on DEC: check the shape, drive the port, wait until the
  output has settled, read it (R70, R131, R152, R155). -/
  | call (dst : Option HostVar) (u : UnitId) (arg : HostArg)
  /-- `dst := arg`, inside the host (R70). -/
  | assign (dst : HostVar) (arg : HostArg)
  /-- `dst := flip(arg, i)` for each position in turn: the medium (R71). -/
  | flip (dst : HostVar) (arg : HostArg) (positions : List Position)
  /-- Drive one input port or both at the same time, and do not wait (R22, R143). -/
  | drive (enc : Option DbLevels) (dec : Option CwLevels)
  /-- Let `enc_c` drive `dec_r` directly, through a medium that does not delay it and inverts these positions in
  turn (R71, R155). It lasts until the host drives `dec_r` itself. -/
  | connect (positions : List Position)
  /-- Let `t` units of time pass (R154). -/
  | elapse (t : Nat)
  /-- Wait until both outputs have settled (R155). -/
  | settle
  /-- Read an output port now, settled or not (R154, R155). -/
  | sample (dst : HostVar) (u : UnitId)
  deriving DecidableEq, Repr

/-- One block (an ENC and a DEC unit), the medium, and the host. Plain data. -/
structure State where
  /-- The build parameter `P_COVERAGE` of both units (R6, R25). No step changes it. -/
  pCoverage : PCoverage
  /-- Input port `enc_d` (R22). -/
  encD : DbLevels
  /-- Output port `enc_c` (R22). -/
  encC : CwLevels
  /-- Input port `dec_r` (R22). -/
  decR : CwLevels
  /-- Output port `dec_q` (R22). -/
  decQ : DbLevels
  /-- Time until `enc_c` has settled; 0 when it has (R154). -/
  encWait : Nat
  /-- Time until `dec_q` has settled; 0 when it has (R154, R155). -/
  decWait : Nat
  /-- `none`: the host drives `dec_r`. `some ps`: `enc_c` drives it through the medium, which inverts `ps`
  in turn (R71, R155). -/
  link : Option (List Position)
  /-- The host's variables (R70). -/
  vars : HostVars
  /-- The host's actions to come, next first. The machine's input from outside (log 2). -/
  pending : List HostAction
  /-- The model's own counter of moments, to which the free values are applied (log 4). -/
  draws : Nat
  deriving DecidableEq, Repr

/-- Four bits that nobody drives. -/
def State.undrivenDb : DbLevels := ⟨.other, .other, .other, .other⟩

/-- Eight bits that nobody drives. -/
def State.undrivenCw : CwLevels := ⟨.other, .other, .other, .other, .other, .other, .other, .other⟩

/-- Power-up: there is no reset input and nothing to reset (R150). Both outputs are any value until their inputs
have been stable for the delay (R29, R150); `P_COVERAGE` is the default (R6); the host's variables are unset
(95_test_vectors.md section 6). DESIGN CHOICE (log 5): no input port is driven yet. DESIGN CHOICE (log 16): every
block starts at the same moment, so the open outputs of two blocks at power-up are equal. -/
def State.reset : State where
  pCoverage := Config.pCoverageDefault
  encD := State.undrivenDb
  encC := Config.freeEncC 0
  decR := State.undrivenCw
  decQ := Config.freeDecQ 0
  encWait := Config.tPdEnc
  decWait := Config.tPdDec
  link := none
  vars := ⟨none, none, none, none⟩
  pending := []
  draws := 1

end Sys2Proof.Machine
end

