-- ==== Sys2Proof/Machine/Ops.lean ====
section
/-!
DEFINITION. The shared operations over the ports: driving, time, settling, and the outputs that follow.

There is no memory (R40), no register (R21) and no trap entry or return (R137, R138), so there is no operation
for any of these. The one error, `InvalidInputShape`, is decided at the host boundary and changes nothing
(R132, R137): it is the refusal of HostActions.lean.
-/

namespace Sys2Proof.Machine

/-- Drive `enc_d`. A change starts ENC's settling interval again (R154), and, where `enc_c` drives `dec_r`, the
interval of the two delays together (R155). -/
def driveEnc (l : DbLevels) (s : State) : State :=
  { s with
    encD := l
    encWait := if l = s.encD then s.encWait else Config.tPdEnc
    decWait :=
      if l = s.encD then s.decWait
      else if s.link = none then s.decWait
      else Config.tPdEnc + Config.tPdDec }

/-- Drive `dec_r` from the host. A change starts DEC's settling interval again (R154). Taking the port over from
`enc_c` counts as a change. -/
def driveDec (r : CwLevels) (s : State) : State :=
  { s with
    decR := r
    link := none
    decWait := if s.link = none ∧ r = s.decR then s.decWait else Config.tPdDec }

/-- Let `enc_c` drive `dec_r` through the medium: a change of `dec_r`, which lasts as long as `enc_c` has not
settled (R154, R155). -/
def connectLink (ps : List Position) (s : State) : State :=
  { s with link := some ps, decWait := s.encWait + Config.tPdDec }

/-- `t` units of time pass with both inputs unchanged (R154). -/
def elapse (t : Nat) (s : State) : State :=
  { s with encWait := s.encWait - t, decWait := s.decWait - t }

/-- Wait out what is left of ENC's delay (R155): `elapse s.encWait`, see Laws. -/
def settleEnc (s : State) : State :=
  { s with encWait := 0, decWait := s.decWait - s.encWait }

/-- Wait out what is left of DEC's delay (R155): `elapse s.decWait`, see Laws. -/
def settleDec (s : State) : State :=
  { s with decWait := 0, encWait := s.encWait - s.decWait }

/-- Wait out both delays (R155). -/
def settleBoth (s : State) : State := { s with encWait := 0, decWait := 0 }

/-- `enc_c` at this moment: the function of a settled binary `enc_d` (R80, R154), else any value (R134, R154), which
depends on the moment alone and not on the block (log 16). -/
def encOutput (s : State) : CwLevels :=
  match s.encWait, dbWord s.encD with
  | 0, some d => cwLevels (encodeWord s.pCoverage d)
  | _, _ => Config.freeEncC s.draws

/-- `dec_r` holds still: the host drives it, or the `enc_c` that drives it is a settled function of a binary
input (R154, R155). -/
def decInputSteady (s : State) : Bool :=
  match s.link with
  | none => true
  | some _ => s.encWait == 0 && (dbWord s.encD).isSome

/-- `dec_r` at this moment, given `enc_c` (R22, R71, R155). -/
def decInput (s : State) (c : CwLevels) : CwLevels :=
  match s.link with
  | none => s.decR
  | some ps => mediumLevels ps c

/-- `dec_q` at this moment, given `dec_r`: the function of a settled binary `dec_r` (R100, R154), else any value
(R134, R154), which depends on the moment alone and not on the block (log 16). -/
def decOutput (s : State) (r : CwLevels) : DbLevels :=
  match decInputSteady s, s.decWait, cwWord r with
  | true, 0, some w => dbLevels (decodeWord s.pCoverage w)
  | _, _, _ => Config.freeDecQ s.draws

/-- The ports at the present moment: both units respond to their inputs at all times (R20, R143), and the next
moment draws anew. -/
def refresh (s : State) : State :=
  { s with
    encC := encOutput s
    decR := decInput s (encOutput s)
    decQ := decOutput s (decInput s (encOutput s))
    draws := s.draws + 1 }

/-- The text of a unit's output port (R63). -/
def outputText (u : UnitId) (s : State) : Text :=
  match u with
  | .enc => cwText s.encC
  | .dec => dbText s.decQ

/-- A host variable (R70). -/
def readVar (v : HostVar) (s : State) : Option Text :=
  match v with
  | .d => s.vars.d
  | .c => s.vars.c
  | .r => s.vars.r
  | .q => s.vars.q

/-- Set a host variable (R70). -/
def setVar (v : HostVar) (t : Text) (s : State) : State :=
  match v with
  | .d => { s with vars := { s.vars with d := some t } }
  | .c => { s with vars := { s.vars with c := some t } }
  | .r => { s with vars := { s.vars with r := some t } }
  | .q => { s with vars := { s.vars with q := some t } }

/-- Keep the result of a call, where the host names a variable for it. -/
def keepResult (dst : Option HostVar) (t : Text) (s : State) : State :=
  match dst with
  | none => s
  | some v => setVar v t s

end Sys2Proof.Machine
end

