-- ==== Sys2Proof/Machine/Decoder.lean ====
section
/-!
DEFINITION. The DECODE family: one operation, on the DEC unit.
-/

namespace Sys2Proof.Machine

/-- DECODE (R100): `dec_r` takes the operand, and once it has been stable for `T_PD_DEC`, `dec_q` is the data
block of R100 to R105 (R154). One evaluation, from stable input to stable output. A bit that is neither 0 nor 1
leaves `dec_q` unspecified (R134). -/
def execDecode (r : CwLevels) (s : State) : Host.Outcome State Fault Refusal :=
  .next (refresh (settleDec (driveDec r s)))

end Sys2Proof.Machine
end

