-- ==== Sys2Proof/Machine/Encoder.lean ====
section
/-!
DEFINITION. The ENCODE family: one operation, on the ENC unit.
-/

namespace Sys2Proof.Machine

/-- ENCODE (R80): `enc_d` takes the operand, and once it has been stable for `T_PD_ENC`, `enc_c` is its codeword
(R154). One evaluation, from stable input to stable output. A bit that is neither 0 nor 1 leaves `enc_c`
unspecified (R134). -/
def execEncode (d : DbLevels) (s : State) : Host.Outcome State Fault Refusal :=
  .next (refresh (settleEnc (driveEnc d s)))

end Sys2Proof.Machine
end

