-- ==== Sys2Proof/Machine/HostActions.lean ====
section
/-!
DEFINITION. What each action of the host and of the medium does.

The block runs no program of its own (R23); what drives it is a sequence of host transactions (R70).
-/

namespace Sys2Proof.Machine

/-- The text of an argument, if its variable is set (R70). -/
def argText (a : HostArg) (s : State) : Option Text :=
  match a with
  | .lit t => some t
  | .var v => readVar v s

/-- An action of the host that needs an argument's text; a variable that is not set is refused by name (log 8). -/
def withArg (a : HostArg) (s : State) (k : Text → Host.Outcome State Fault Refusal) :
    Host.Outcome State Fault Refusal :=
  match a with
  | .lit t => k t
  | .var v =>
    match readVar v s with
    | some t => k t
    | none => .refused (.unsetVariable v)

/-- `host_encode` and `host_decode` (R131): a text of the wrong shape is refused by name, with no port driven and
no result (R132); any other text is the operand of the operation, and the settled output is the result. -/
def runCall (dst : Option HostVar) (u : UnitId) (t : Text) (s : State) : Host.Outcome State Fault Refusal :=
  match decode u t with
  | .error (.invalidInputShape input) => .refused (.invalidInputShape input)
  | .ok i =>
    match exec i s with
    | .next s' => .next (keepResult dst (outputText u s') s')
    | .fault e => .fault e
    | .refused e => .refused e

/-- `dst := flip(t, i)` for each position (R71). `flip` is defined on a CW, 8 symbols (log 8). -/
def runFlip (dst : HostVar) (ps : List Position) (t : Text) (s : State) : Host.Outcome State Fault Refusal :=
  if t.length = 8 then .next (refresh (setVar dst (mediumText ps t) s)) else .refused (.notACodeword t)

/-- Drive the ports that are named, both at the same time (R143). -/
def driveBoth (enc : Option DbLevels) (dec : Option CwLevels) (s : State) : State :=
  let s' := match enc with
    | some l => driveEnc l s
    | none => s
  match dec with
  | some r => driveDec r s'
  | none => s'

/-- The host does nothing: one unit of time passes (R145, R154). -/
def idle (s : State) : State := refresh (elapse 1 s)

/-- One action of the host or of the medium. -/
def runAction (a : HostAction) (s : State) : Host.Outcome State Fault Refusal :=
  match a with
  | .call dst u arg => withArg arg s (fun t => runCall dst u t s)
  | .assign dst arg => withArg arg s (fun t => .next (refresh (setVar dst t s)))
  | .flip dst arg ps => withArg arg s (fun t => runFlip dst ps t s)
  | .drive enc dec => .next (refresh (driveBoth enc dec s))
  | .connect ps => .next (refresh (connectLink ps s))
  | .elapse t => .next (refresh (elapse t s))
  | .settle => .next (refresh (settleBoth s))
  | .sample dst u => .next (refresh (setVar dst (outputText u s) s))

/-- The call whose text is the `nbits` low bits of `w`, on the unit of that width (R63, R69). DESIGN CHOICE (log 1):
bits of `w` above `nbits` are dropped, where `decodeTableWord` answers none; any width but 4 is a call on DEC. -/
def tableCall (nbits w : Nat) : HostAction :=
  .call none (unitOfWidth nbits) (.lit (textOfNat nbits w))

end Sys2Proof.Machine
end

