-- ==== Sys2Proof/Machine/Step.lean ====
section
/-!
DEFINITION. One step: the host's next action, or one idle unit of time.

The block fetches nothing (R23, R50). What takes the place of a fetch is the host's next action.
-/

namespace Sys2Proof.Machine

/-- One step of the block with its host. -/
def step (s : State) : Host.Outcome State Fault Refusal :=
  match s.pending with
  | [] => .next (idle s)
  | a :: rest => runAction a { s with pending := rest }

/-- `s` with one word of the opcode table as the host's very next call (log 2). Bits of `w` above `nbits` are
dropped (log 1). -/
def State.withFetchWord (s : State) (nbits w : Nat) : State :=
  { s with pending := tableCall nbits w :: s.pending }

end Sys2Proof.Machine
end

