-- ==== Sys2Proof/Safety.lean ====
section
/-!
DEFINITION. What claims about the block are stated in terms of: the coherence of a state, the result of an
operation, a run of host actions, and the premises of the recovery guarantee.
-/

namespace Sys2Proof.Machine

/-- The ports of a state agree with R20 and R154, and the settling times are ones the delays allow. -/
structure State.Coherent (s : State) : Prop where
  /-- A settled `enc_c` is the function of a binary `enc_d` (R20, R80, R154). -/
  encFollows : s.encWait = 0 → ∀ d, s.encD = dbLevels d → s.encC = cwLevels (encodeWord s.pCoverage d)
  /-- Where `enc_c` drives `dec_r`, `dec_r` is what the medium makes of `enc_c` (R71, R155). -/
  linkFollows : ∀ ps, s.link = some ps → s.decR = mediumLevels ps s.encC
  /-- A settled `dec_q` is the function of a binary `dec_r` that holds still (R20, R100, R154). -/
  decFollows : s.decWait = 0 → (s.link = none ∨ ∃ d, s.encD = dbLevels d) →
    ∀ r, s.decR = cwLevels r → s.decQ = dbLevels (decodeWord s.pCoverage r)
  /-- ENC settles within `T_PD_ENC` (R154). -/
  encDelay : s.encWait ≤ Config.tPdEnc
  /-- DEC settles within `T_PD_DEC` where the host drives it (R154). -/
  decDelay : s.link = none → s.decWait ≤ Config.tPdDec
  /-- DEC settles within both delays where `enc_c` drives it (R155). -/
  linkDelay : s.link ≠ none → s.decWait ≤ Config.tPdEnc + Config.tPdDec
  /-- Where `enc_c` drives it, DEC is not settled before ENC is (R155). -/
  linkOrder : s.link ≠ none → s.encWait ≤ s.decWait

/-- ENCODE of `l` in `s` completes: `enc_d` holds `l`, ENC has settled, and `enc_c` is `c`. -/
def EncodesTo (s : State) (l : DbLevels) (c : CwLevels) : Prop :=
  ∃ t, exec (.encode l) s = .next t ∧ t.encD = l ∧ t.encWait = 0 ∧ t.encC = c

/-- DECODE of `l` in `s` completes: the host drives `l` on `dec_r`, DEC has settled, and `dec_q` is `q`. -/
def DecodesTo (s : State) (l : CwLevels) (q : DbLevels) : Prop :=
  ∃ t, exec (.decode l) s = .next t ∧ t.decR = l ∧ t.link = none ∧ t.decWait = 0 ∧ t.decQ = q

/-- The host's actions `acts`, performed one after the other from `s`, end in `t`. -/
def After (acts : List HostAction) (s t : State) : Prop :=
  core.run acts.length { s with pending := acts ++ s.pending } = .next t

/-- The medium inverted at most one bit: the premise of the recovery guarantee (R71, R110). -/
def AtMostOneFlip (sent received : Codeword) : Prop := distance sent received ≤ 1

/-- A text that the shape check of R131 rejects on a unit: the wrong length, or a symbol other than 0 and 1. -/
def BadShape (u : UnitId) (t : Text) : Prop :=
  t.length ≠ u.operandWidth ∨ ∃ c ∈ t, c ≠ '0' ∧ c ≠ '1'

/-- A step that ends well: it has a next state, or the host's call was rejected for its shape (R132). A run is
safe as long as its steps end so: it uses only transactions that the spec gives a meaning. -/
def SafeStep (s : State) : Prop :=
  (∃ t, step s = .next t) ∨ ∃ input, step s = .refused (.invalidInputShape input)

/-- The host's next action uses only set variables, and sends only 8 symbols through the medium (log 8). -/
def HostDutiesMet (s : State) : Prop :=
  match s.pending with
  | [] => True
  | a :: _ =>
    match a with
    | .call _ _ arg => argText arg s ≠ none
    | .assign _ arg => argText arg s ≠ none
    | .flip _ arg _ => ∃ t, argText arg s = some t ∧ t.length = 8
    | .drive _ _ => True
    | .connect _ => True
    | .elapse _ => True
    | .settle => True
    | .sample _ _ => True

end Sys2Proof.Machine
end

