-- ==== Sys2Proof/Certificates/Slice0/Obligations.lean ====
section
/-!
DEFINITION. The statements about the block, for the provers.

Where a docstring says "the spec's own inference", the rule it names is marked [derived] in spec/; "the spec's own
choice" is a rule marked [decision]. No statement rests on a value of `Config.freeEncC`, `Config.freeDecQ` or the
delays.
-/

open Sys2Proof Sys2Proof.Machine

/-! ### Power-up, coherence, and what no step changes -/

/-- R150, R29 with log 5: at power-up nothing drives the inputs, neither output has settled, the build has the
default `P_COVERAGE`, and the host has neither variables nor actions; an idle step then leaves both outputs open.
That no port is driven is the model's choice (log 5). -/
def Obligations.PowerUpLeavesTheOutputsOpen : Prop :=
  State.reset.pCoverage = .all7 ∧ dbWord State.reset.encD = none ∧ cwWord State.reset.decR = none ∧
  State.reset.encWait = Config.tPdEnc ∧ State.reset.decWait = Config.tPdDec ∧
  0 < State.reset.encWait ∧ 0 < State.reset.decWait ∧
  State.reset.link = none ∧ State.reset.pending = [] ∧ (∀ v, readVar v State.reset = none) ∧
  ∃ t k, step State.reset = .next t ∧ t.encC = Config.freeEncC k ∧ t.decQ = Config.freeDecQ k

/-- The state at power-up is coherent. -/
def Obligations.ResetIsCoherent : Prop := State.reset.Coherent

/-- Every step keeps the ports in agreement with R20, R154 and R155, from every coherent state. How a connection
begins and ends is the model's choice (log 7). -/
def Obligations.EveryStepKeepsCoherence : Prop :=
  ∀ s t : State, s.Coherent → step s = .next t → t.Coherent

/-- R6, R25: nothing that the host or the block does changes `P_COVERAGE`. -/
def Obligations.NoStepChangesPCoverage : Prop :=
  ∀ s t : State, step s = .next t → t.pCoverage = s.pCoverage

/-! ### Texts, words and operations -/

/-- Decoding the text of a well-formed operation on its unit gives the operation back. -/
def Obligations.DecodeOfEncodeIsTheOperation : Prop :=
  ∀ i : Instr, i.wellFormed = true → decode (encode i).1 (encode i).2 = .ok i

/-- A text that decodes is the text of the operation it decodes to, and that operation is well formed. -/
def Obligations.EncodeOfDecodeIsTheText : Prop :=
  ∀ (u : UnitId) (t : Text) (i : Instr), decode u t = .ok i → encode i = (u, t) ∧ i.wellFormed = true

/-- R130: a text is rejected as `InvalidInputShape` exactly when it is not 4 symbols long for encode and 8 for
decode, or holds a symbol other than 0 and 1; the rejection names the text. -/
def Obligations.ShapeCheckDecidesEveryText : Prop :=
  ∀ (u : UnitId) (t : Text),
    (decode u t = .error (.invalidInputShape t) ↔ BadShape u t) ∧
    (BadShape u t ∨ ∃ i, decode u t = .ok i ∧ i.unit = u) ∧
    (BadShape .enc t ↔ t.length ≠ 4 ∨ ∃ c ∈ t, c ≠ '0' ∧ c ≠ '1') ∧
    (BadShape .dec t ↔ t.length ≠ 8 ∨ ∃ c ∈ t, c ≠ '0' ∧ c ≠ '1')

/-- Texts and table words written out bit by bit from R61 and R62 decode to the operations they stand for. -/
def Obligations.SampleWordsDecode : Prop :=
  decode .enc ['1', '0', '1', '0'] = .ok (.encode ⟨.high, .low, .high, .low⟩) ∧
  decode .enc ['0', '0', '0', '1'] = .ok (.encode ⟨.low, .low, .low, .high⟩) ∧
  decode .dec ['1', '1', '0', '1', '1', '0', '1', '0'] =
    .ok (.decode ⟨.high, .high, .low, .high, .high, .low, .high, .low⟩) ∧
  decodeTableWord 4 0x8 = some (.encode ⟨.high, .low, .low, .low⟩) ∧
  decodeTableWord 8 0x80 = some (.decode ⟨.high, .low, .low, .low, .low, .low, .low, .low⟩) ∧
  decodeTableWord 8 0x01 = some (.decode ⟨.low, .low, .low, .low, .low, .low, .low, .high⟩) ∧
  decodeTableWord 4 0x10 = none ∧ decodeTableWord 5 0 = none

/-- R70: the call form of a unit and a text, `encode("…")` or `decode("…")`, reads back as that unit and text,
and nothing else reads so. -/
def Obligations.CallFormReadsBack : Prop :=
  ∀ (line : Text) (u : UnitId) (t : Text), parseCall line = some (u, t) ↔ line = printCall u t

/-- R63, the spec's own inference: a text of 0s and 1s has a 4-bit form for DB and an 8-bit form for CW; character
`i` is position `i`; and the text read from left to right as a binary numeral is the bus value. -/
def Obligations.TextReadsAsTheBusValue : Prop :=
  (∀ t : Text, ¬ BadShape .enc t →
    decode .enc t = .ok (.encode (dbLevels (BitVec.ofNat 4 (textNumeral t)))) ∧ textNumeral t < 16 ∧
    ∀ i : Fin 4, dbAt (BitVec.ofNat 4 (textNumeral t)) i = (t[i.val]? == some '1')) ∧
  (∀ t : Text, ¬ BadShape .dec t →
    decode .dec t = .ok (.decode (cwLevels (BitVec.ofNat 8 (textNumeral t)))) ∧ textNumeral t < 256 ∧
    ∀ i : Position, cwAt (BitVec.ofNat 8 (textNumeral t)) i = (t[i.val]? == some '1')) ∧
  textNumeral ['0', '1', '0', '1', '1', '0', '1', '0'] = 0x5A ∧ textNumeral ['1', '0', '1', '0'] = 0xA

/-- R66: all 16 values of `enc_d` and all 256 values of `dec_r` are legal operands: each table word is an
operation, and the operation completes in every state. That a table word's width names its row is the model's
choice (log 1). -/
def Obligations.EveryPortValueIsLegal : Prop :=
  (∀ (s : State) (d : DataBlock), decodeTableWord 4 d.toNat = some (.encode (dbLevels d)) ∧
    ∃ t, exec (.encode (dbLevels d)) s = .next t) ∧
  (∀ (s : State) (r : Codeword), decodeTableWord 8 r.toNat = some (.decode (cwLevels r)) ∧
    ∃ t, exec (.decode (cwLevels r)) s = .next t)

/-! ### ENCODE -/

/-- R80: ENCODE of any four bits, in any state, completes with `{P, H1, H2, H3, D1, D2, D3, D4}` on `enc_c`, for
both values of `P_COVERAGE`, with the corner cases and the worked example of the rule. -/
def Obligations.EncodeFollowsItsRule : Prop :=
  (∀ (s : State) (d1 d2 d3 d4 : Bool),
    let h1 := d1 ^^ d2 ^^ d4
    let h2 := d1 ^^ d3 ^^ d4
    let h3 := d2 ^^ d3 ^^ d4
    let p := match s.pCoverage with
      | .all7 => h1 ^^ h2 ^^ h3 ^^ d1 ^^ d2 ^^ d3 ^^ d4
      | .data4 => d1 ^^ d2 ^^ d3 ^^ d4
    EncodesTo s ⟨bitLevel d1, bitLevel d2, bitLevel d3, bitLevel d4⟩
      ⟨bitLevel p, bitLevel h1, bitLevel h2, bitLevel h3, bitLevel d1, bitLevel d2, bitLevel d3, bitLevel d4⟩) ∧
  (∀ s : State,
    EncodesTo s (dbLevels 0x0#4) (cwLevels 0x00#8) ∧
    (s.pCoverage = .all7 → EncodesTo s (dbLevels 0xF#4) (cwLevels 0xFF#8)) ∧
    (s.pCoverage = .data4 → EncodesTo s (dbLevels 0xF#4) (cwLevels 0x7F#8)) ∧
    EncodesTo s (dbLevels 0xA#4) (cwLevels 0x5A#8)) ∧
  (∀ (s s' : State) (d : DataBlock) (c c' : Codeword), s.pCoverage ≠ s'.pCoverage →
    EncodesTo s (dbLevels d) (cwLevels c) → EncodesTo s' (dbLevels d) (cwLevels c') →
    (d.getLsbD 0 = false → c = c') ∧ (d.getLsbD 0 = true → c' = c ^^^ 0x80#8))

/-- R81, R82, R83, R86: the Hamming bits of the codeword on `enc_c`, in bus numbering, and the data bits passing
through unchanged. -/
def Obligations.HammingBitsAndDataOfTheCodeword : Prop :=
  ∀ (s : State) (d : DataBlock), ∃ c : Codeword, EncodesTo s (dbLevels d) (cwLevels c) ∧
    c.getLsbD 6 = (d.getLsbD 3 ^^ d.getLsbD 2 ^^ d.getLsbD 0) ∧
    c.getLsbD 5 = (d.getLsbD 3 ^^ d.getLsbD 1 ^^ d.getLsbD 0) ∧
    c.getLsbD 4 = (d.getLsbD 2 ^^ d.getLsbD 1 ^^ d.getLsbD 0) ∧
    c.extractLsb' 0 4 = d ∧
    c = packCw (c.getLsbD 7) (c.getLsbD 6) (c.getLsbD 5) (c.getLsbD 4)
      (d.getLsbD 3) (d.getLsbD 2) (d.getLsbD 1) (d.getLsbD 0)

/-- R84 (the default is the spec's own choice, D4): P is the parity of the other seven bits under ALL7 and of the
four data bits under DATA4, and ALL7 is the default. -/
def Obligations.OverallParityCoversTheSelectedBits : Prop :=
  State.reset.pCoverage = .all7 ∧
  ∀ (s : State) (d : DataBlock), ∃ c : Codeword, EncodesTo s (dbLevels d) (cwLevels c) ∧
    (s.pCoverage = .all7 → c.getLsbD 7 = (c.getLsbD 6 ^^ c.getLsbD 5 ^^ c.getLsbD 4 ^^
      d.getLsbD 3 ^^ d.getLsbD 2 ^^ d.getLsbD 1 ^^ d.getLsbD 0)) ∧
    (s.pCoverage = .data4 → c.getLsbD 7 = (d.getLsbD 3 ^^ d.getLsbD 2 ^^ d.getLsbD 1 ^^ d.getLsbD 0))

/-- R85, R89, the spec's own inferences: in every codeword the Hamming bits' XOR is D4; P is D1⊕D2⊕D3 under ALL7
and D1⊕D2⊕D3⊕D4 under DATA4; the whole word's XOR is 0 under ALL7 and D4 under DATA4. -/
def Obligations.CodewordParities : Prop :=
  ∀ d : DataBlock,
    (∀ cov, (cwAt (encodeWord cov d) 1 ^^ cwAt (encodeWord cov d) 2 ^^ cwAt (encodeWord cov d) 3) = dbAt d 3) ∧
    cwAt (encodeWord .all7 d) 0 = (dbAt d 0 ^^ dbAt d 1 ^^ dbAt d 2) ∧
    cwAt (encodeWord .data4 d) 0 = (dbAt d 0 ^^ dbAt d 1 ^^ dbAt d 2 ^^ dbAt d 3) ∧
    weightParity (encodeWord .all7 d) = false ∧ weightParity (encodeWord .data4 d) = dbAt d 3

/-- R90, the spec's own inference: different data have different codewords, at distance at least 4 under ALL7 and
at least 3 under DATA4, and both distances occur; `0x8` and `0x1` are at distance 3 under DATA4. -/
def Obligations.CodewordDistances : Prop :=
  (∀ a b : DataBlock, a ≠ b →
    4 ≤ distance (encodeWord .all7 a) (encodeWord .all7 b) ∧
    3 ≤ distance (encodeWord .data4 a) (encodeWord .data4 b)) ∧
  (∃ a b : DataBlock, distance (encodeWord .all7 a) (encodeWord .all7 b) = 4) ∧
  encodeWord .data4 0x8#4 = 0xE8#8 ∧ encodeWord .data4 0x1#4 = 0xF1#8 ∧ distance 0xE8#8 0xF1#8 = 3

/-- What ENCODE leaves unchanged (R13, R44, R143): the build, the medium, the host, a host-driven `dec_r`, and a
settled `dec_q`. Time passes for DEC too (R154, R155). Where the medium joins the units, `dec_r` follows `enc_c`
(R71, R155): the model's form of the connection (log 7). That an operand which `enc_d` already holds is no change,
and so starts no interval of a joined DEC, is the model's inference from R154 (log 12, DEDUCED). -/
def Obligations.EncodeFrame : Prop :=
  ∀ (s t : State) (l : DbLevels), s.Coherent → exec (.encode l) s = .next t →
    t.encD = l ∧ t.pCoverage = s.pCoverage ∧ t.link = s.link ∧ t.vars = s.vars ∧ t.pending = s.pending ∧
    (s.link = none ∨ l = s.encD → t.decWait ≤ s.decWait) ∧
    (s.link = none → t.decR = s.decR ∧
      (s.decWait = 0 → s.decR.binary = true → t.decQ = s.decQ)) ∧
    (∀ ps, s.link = some ps → t.decR = mediumLevels ps t.encC)

/-! ### DECODE -/

/-- R100: DECODE of any eight bits, in any state, completes with the data block of the rule on `dec_q`, for both
values of `P_COVERAGE`, with the corner cases and the worked example of the rule. -/
def Obligations.DecodeFollowsItsRule : Prop :=
  (∀ (s : State) (p h1 h2 h3 d1 d2 d3 d4 : Bool),
    let pexp := match s.pCoverage with
      | .all7 => h1 ^^ h2 ^^ h3 ^^ d1 ^^ d2 ^^ d3 ^^ d4
      | .data4 => d1 ^^ d2 ^^ d3 ^^ d4
    let s1 := h1 ^^ (d1 ^^ d2 ^^ d4)
    let s2 := h2 ^^ (d1 ^^ d3 ^^ d4)
    let s3 := h3 ^^ (d2 ^^ d3 ^^ d4)
    DecodesTo s
      ⟨bitLevel p, bitLevel h1, bitLevel h2, bitLevel h3, bitLevel d1, bitLevel d2, bitLevel d3, bitLevel d4⟩
      (if p = pexp then ⟨bitLevel d1, bitLevel d2, bitLevel d3, bitLevel d4⟩
       else if s1 = true ∧ s2 = true ∧ s3 = true then ⟨bitLevel d1, bitLevel d2, bitLevel d3, bitLevel (!d4)⟩
       else if s1 = true ∧ s2 = true then ⟨bitLevel (!d1), bitLevel d2, bitLevel d3, bitLevel d4⟩
       else if s1 = true ∧ s3 = true then ⟨bitLevel d1, bitLevel (!d2), bitLevel d3, bitLevel d4⟩
       else if s2 = true ∧ s3 = true then ⟨bitLevel d1, bitLevel d2, bitLevel (!d3), bitLevel d4⟩
       else ⟨bitLevel d1, bitLevel d2, bitLevel d3, bitLevel d4⟩)) ∧
  (∀ (s : State) (d : DataBlock), DecodesTo s (cwLevels (encodeWord s.pCoverage d)) (dbLevels d)) ∧
  (∀ (s : State) (r : Codeword), parOk s.pCoverage r = false →
    [syndrome1 r, syndrome2 r, syndrome3 r].countP id ≤ 1 →
    DecodesTo s (cwLevels r) (dbLevels (r.extractLsb' 0 4))) ∧
  (∀ (s : State) (r : Codeword), s.pCoverage = .all7 → weightParity r = false →
    DecodesTo s (cwLevels r) (dbLevels (r.extractLsb' 0 4))) ∧
  (∀ s : State, DecodesTo s (cwLevels 0xDA#8) (dbLevels 0xA#4))

/-- R101, R103, R104: the fields of the received word, the recomputed Hamming bits and the syndrome, in bus
numbering. -/
def Obligations.SyndromeOfTheReceivedWord : Prop :=
  ∀ r : Codeword,
    (cwAt r 0 = r.getLsbD 7 ∧ cwAt r 1 = r.getLsbD 6 ∧ cwAt r 2 = r.getLsbD 5 ∧ cwAt r 3 = r.getLsbD 4 ∧
      cwAt r 4 = r.getLsbD 3 ∧ cwAt r 5 = r.getLsbD 2 ∧ cwAt r 6 = r.getLsbD 1 ∧ cwAt r 7 = r.getLsbD 0) ∧
    syndrome1 r = (r.getLsbD 6 ^^ (r.getLsbD 3 ^^ r.getLsbD 2 ^^ r.getLsbD 0)) ∧
    syndrome2 r = (r.getLsbD 5 ^^ (r.getLsbD 3 ^^ r.getLsbD 1 ^^ r.getLsbD 0)) ∧
    syndrome3 r = (r.getLsbD 4 ^^ (r.getLsbD 2 ^^ r.getLsbD 1 ^^ r.getLsbD 0))

/-- R102 (the DATA4 check is the spec's own choice, D4): `par_ok` under both values of `P_COVERAGE`; under ALL7 it
is even weight; and with `par_ok` the received data bits are the result. -/
def Obligations.ParityMatchPassesTheDataThrough : Prop :=
  (∀ r : Codeword,
    (parOk .all7 r = true ↔ r.getLsbD 7 = (r.getLsbD 6 ^^ r.getLsbD 5 ^^ r.getLsbD 4 ^^
      r.getLsbD 3 ^^ r.getLsbD 2 ^^ r.getLsbD 1 ^^ r.getLsbD 0)) ∧
    (parOk .all7 r = true ↔ weightParity r = false) ∧
    (parOk .data4 r = true ↔ r.getLsbD 7 = (r.getLsbD 3 ^^ r.getLsbD 2 ^^ r.getLsbD 1 ^^ r.getLsbD 0))) ∧
  (∀ (s : State) (r : Codeword), parOk s.pCoverage r = true →
    DecodesTo s (cwLevels r) (dbLevels (r.extractLsb' 0 4)))

/-- R105: with `par_ok = 0`, the result by the syndrome: rows 1 to 4 invert D4, D1, D2 and D3, and row 5 (at most
one mismatch) inverts nothing. -/
def Obligations.CorrectionBySyndrome : Prop :=
  ∀ (s : State) (r : Codeword), parOk s.pCoverage r = false →
    (syndrome1 r = true → syndrome2 r = true → syndrome3 r = true →
      DecodesTo s (cwLevels r) (dbLevels (r.extractLsb' 0 4 ^^^ 0x1#4))) ∧
    (syndrome1 r = true → syndrome2 r = true → syndrome3 r = false →
      DecodesTo s (cwLevels r) (dbLevels (r.extractLsb' 0 4 ^^^ 0x8#4))) ∧
    (syndrome1 r = true → syndrome2 r = false → syndrome3 r = true →
      DecodesTo s (cwLevels r) (dbLevels (r.extractLsb' 0 4 ^^^ 0x4#4))) ∧
    (syndrome1 r = false → syndrome2 r = true → syndrome3 r = true →
      DecodesTo s (cwLevels r) (dbLevels (r.extractLsb' 0 4 ^^^ 0x2#4))) ∧
    ([syndrome1 r, syndrome2 r, syndrome3 r].countP id ≤ 1 →
      DecodesTo s (cwLevels r) (dbLevels (r.extractLsb' 0 4)))

/-- R106, the spec's own inference: the ordered steps equal the sum-of-products form, for every received word and
both values of `P_COVERAGE`. -/
def Obligations.DecodeEqualsSumOfProducts : Prop :=
  ∀ (s : State) (r : Codeword) (e s1 s2 s3 : Bool),
    e = !parOk s.pCoverage r → s1 = syndrome1 r → s2 = syndrome2 r → s3 = syndrome3 r →
    DecodesTo s (cwLevels r)
      ⟨bitLevel (r.getLsbD 3 ^^ (e && s1 && s2 && !s3)), bitLevel (r.getLsbD 2 ^^ (e && s1 && !s2 && s3)),
       bitLevel (r.getLsbD 1 ^^ (e && !s1 && s2 && s3)), bitLevel (r.getLsbD 0 ^^ (e && s1 && s2 && s3))⟩

/-- R107, R113, the spec's own inferences: a clean codeword passes Step 1 with syndrome 000 and its data in bits
3..0, and flipping position `i` of it gives the fingerprint of `i`, whatever the data. -/
def Obligations.FlipFingerprints : Prop :=
  ∀ (cov : PCoverage) (d : DataBlock),
    (parOk cov (encodeWord cov d) = true ∧ syndrome1 (encodeWord cov d) = false ∧
      syndrome2 (encodeWord cov d) = false ∧ syndrome3 (encodeWord cov d) = false ∧
      (encodeWord cov d).extractLsb' 0 4 = d) ∧
    ∀ i : Position,
      let r := flipWord (encodeWord cov d) i
      (parOk cov r = true ↔ cov = .data4 ∧ (i = 1 ∨ i = 2 ∨ i = 3)) ∧
      (syndrome1 r = true ↔ i = 1 ∨ i = 4 ∨ i = 5 ∨ i = 7) ∧
      (syndrome2 r = true ↔ i = 2 ∨ i = 4 ∨ i = 6 ∨ i = 7) ∧
      (syndrome3 r = true ↔ i = 3 ∨ i = 5 ∨ i = 6 ∨ i = 7)

/-- What DECODE leaves unchanged (R13, R44, R143): the build, the host, `enc_d`, and a settled `enc_c`. The host
now drives `dec_r`, which ends a connection: the model's form of it (log 7). Time passes for ENC too (R154). -/
def Obligations.DecodeFrame : Prop :=
  ∀ (s t : State) (l : CwLevels), s.Coherent → exec (.decode l) s = .next t →
    t.decR = l ∧ t.link = none ∧ t.pCoverage = s.pCoverage ∧ t.vars = s.vars ∧ t.pending = s.pending ∧
    t.encD = s.encD ∧ t.encWait ≤ s.encWait ∧
    (s.encWait = 0 → s.encD.binary = true → t.encC = s.encC)

/-- R110, the spec's own inference, under its premise: what ENC of one block drives, received with at most one bit
inverted, is decoded to the data sent by DEC of any block of the same `P_COVERAGE`, from any states of both. -/
def Obligations.SingleErrorsAreRecovered : Prop :=
  ∀ (s s' : State) (d : DataBlock), s.pCoverage = s'.pCoverage →
    ∃ t sent, exec (.encode (dbLevels d)) s = .next t ∧ t.encC = cwLevels sent ∧
      ∀ received : Codeword, AtMostOneFlip sent received → DecodesTo s' (cwLevels received) (dbLevels d)

/-- R110, R155, the spec's own inferences, inside one block: where `enc_c` drives `dec_r` through a medium that
inverts at most one position, the data driven on `enc_d` stands on `dec_q` once both outputs have settled. The
connect action is the model's form of the connection (log 7). -/
def Obligations.DirectLinkReturnsTheData : Prop :=
  ∀ (s : State) (d : DataBlock) (ps : List Position), ps.length ≤ 1 →
    ∃ t, After [.connect ps, .drive (some (dbLevels d)) none, .settle] s t ∧
      t.encD = dbLevels d ∧ t.link = some ps ∧ t.decQ = dbLevels d

/-- R111, the spec's own inference: between two blocks of different `P_COVERAGE`, a single flip is decoded wrongly
exactly when D4 = 1 and the flipped bit is one of D1..D4; a clean word is decoded rightly. -/
def Obligations.MismatchedBuildsFailExactlyThere : Prop :=
  ∀ (s s' : State) (d : DataBlock), s.pCoverage ≠ s'.pCoverage →
    ∃ t, exec (.encode (dbLevels d)) s = .next t ∧ DecodesTo s' t.encC (dbLevels d) ∧
      ∀ i : Position, DecodesTo s' (flipLevels t.encC i) (dbLevels d) ↔ ¬ (d.getLsbD 0 = true ∧ 4 ≤ i.val)

/-- R112, the spec's own inference: under ALL7 any even number of inversions of a codeword leaves the received
data bits as the result. -/
def Obligations.EvenFlipsPassUncorrected : Prop :=
  ∀ (s s' t : State) (d : DataBlock) (ps : List Position),
    s.pCoverage = .all7 → s'.pCoverage = .all7 → ps.length % 2 = 0 → exec (.encode (dbLevels d)) s = .next t →
    ∃ r : Codeword, mediumLevels ps t.encC = cwLevels r ∧
      DecodesTo s' (mediumLevels ps t.encC) (dbLevels (r.extractLsb' 0 4))

/-- R112, the spec's own inference, by enumeration: the numbers of double and of triple flips after which the
result differs from the data sent. -/
def Obligations.MultipleFlipCounts : Prop :=
  (∀ cov, ((List.finRange 16).map fun d => ((List.finRange 8).map fun i => (List.finRange 8).countP fun j =>
    decide (i < j) && (decodeWord cov (flipWord (flipWord (encodeWord cov (BitVec.ofFin d)) i) j) !=
      BitVec.ofFin d)).sum).sum = 352) ∧
  (∀ cov, ((List.finRange 16).map fun d => ((List.finRange 8).map fun i => ((List.finRange 8).map fun j =>
    (List.finRange 8).countP fun k => decide (i < j ∧ j < k) &&
      (decodeWord cov (flipWord (flipWord (flipWord (encodeWord cov (BitVec.ofFin d)) i) j) k) !=
        BitVec.ofFin d)).sum).sum).sum = if cov = .all7 then 896 else 880)

/-- R114, the spec's own inference: the result differs from the received data bits in at most one bit, and only
where `par_ok = 0`. -/
def Obligations.AtMostOneDataBitChanges : Prop :=
  ∀ (s : State) (r : Codeword), ∃ q : DataBlock, DecodesTo s (cwLevels r) (dbLevels q) ∧
    (List.range 4).countP (fun j => q.getLsbD j != r.getLsbD j) ≤ 1 ∧
    (q ≠ r.extractLsb' 0 4 → parOk s.pCoverage r = false)

/-! ### Both units -/

/-- R134 lets a model draw the unit's output or refuse the input. The draw is the model's choice (log 4): an
operation on a port bit that is neither 0 nor 1 completes, with a free value on that unit's output port. -/
def Obligations.NonBinaryInputLeavesTheOutputOpen : Prop :=
  (∀ (s : State) (l : DbLevels), l.binary = false →
    ∃ t, exec (.encode l) s = .next t ∧ t.encD = l ∧ t.encC = Config.freeEncC s.draws ∧ s.draws < t.draws) ∧
  (∀ (s : State) (l : CwLevels), l.binary = false →
    ∃ t, exec (.decode l) s = .next t ∧ t.decR = l ∧ t.decQ = Config.freeDecQ s.draws ∧ s.draws < t.draws)

/-- R133: both operations are total on binary operands: each completes in every state, with its operand on its port
and a binary word on its output. That they complete on a port bit that is neither 0 nor 1 too is the model's choice
of R134's draw over its refusal (log 4). -/
def Obligations.EveryOperationCompletes : Prop :=
  (∀ (s : State) (l : DbLevels), ∃ t, exec (.encode l) s = .next t ∧ t.encD = l ∧
    (l.binary = true → ∃ c, t.encC = cwLevels c)) ∧
  (∀ (s : State) (l : CwLevels), ∃ t, exec (.decode l) s = .next t ∧ t.decR = l ∧
    (l.binary = true → ∃ q, t.decQ = dbLevels q))

/-- R28: the output of an operation on a binary operand is the same in any two states of one build, whatever was
evaluated before, and whatever else the states hold. -/
def Obligations.ResultsDependOnOperandAndBuildOnly : Prop :=
  (∀ (s s' t t' : State) (l : DbLevels), l.binary = true → s.pCoverage = s'.pCoverage →
    exec (.encode l) s = .next t → exec (.encode l) s' = .next t' → t.encC = t'.encC) ∧
  (∀ (s s' t t' : State) (l : CwLevels), l.binary = true → s.pCoverage = s'.pCoverage →
    exec (.decode l) s = .next t → exec (.decode l) s' = .next t' → t.decQ = t'.decQ)

/-- R47, R143: ENCODE and DECODE in either order leave the same four ports, each output its own unit's function. -/
def Obligations.EitherOrderGivesTheSamePorts : Prop :=
  ∀ (s : State) (d : DataBlock) (r : Codeword), ∃ a b a' b' : State,
    exec (.encode (dbLevels d)) s = .next a ∧ exec (.decode (cwLevels r)) a = .next b ∧
    exec (.decode (cwLevels r)) s = .next a' ∧ exec (.encode (dbLevels d)) a' = .next b' ∧
    b.encD = dbLevels d ∧ b.decR = cwLevels r ∧
    b.encC = cwLevels (encodeWord s.pCoverage d) ∧ b.decQ = dbLevels (decodeWord s.pCoverage r) ∧
    b'.encD = b.encD ∧ b'.encC = b.encC ∧ b'.decR = b.decR ∧ b'.decQ = b.decQ

/-- R143: both input ports driven at the same time, and waited for, give both functions. -/
def Obligations.BothUnitsAtOnce : Prop :=
  ∀ (s : State) (d : DataBlock) (r : Codeword), ∃ t,
    After [.drive (some (dbLevels d)) (some (cwLevels r)), .settle] s t ∧
    t.encC = cwLevels (encodeWord s.pCoverage d) ∧ t.decQ = dbLevels (decodeWord s.pCoverage r)

/-- R154 (the spec's own choice, D6): after a change of a unit's input, its output is a free value until the
delay has passed since the last change, and the unit's function of the input from then on; a second change before
that starts the interval again. For ENC, and for DEC driven by the host. -/
def Obligations.OutputsSettleAfterTheDelay : Prop :=
  (∀ (s : State) (d : DataBlock) (n : Nat), dbLevels d ≠ s.encD →
    ∃ t, After [.drive (some (dbLevels d)) none, .elapse n] s t ∧
      (n < Config.tPdEnc → t.encC = Config.freeEncC (s.draws + 1)) ∧
      (Config.tPdEnc ≤ n → t.encC = cwLevels (encodeWord s.pCoverage d))) ∧
  (∀ (s : State) (l : DbLevels) (d : DataBlock) (m n : Nat), m < Config.tPdEnc → dbLevels d ≠ l →
    ∃ t, After [.drive (some l) none, .elapse m, .drive (some (dbLevels d)) none, .elapse n] s t ∧
      (n < Config.tPdEnc → t.encC = Config.freeEncC (s.draws + 3)) ∧
      (Config.tPdEnc ≤ n → t.encC = cwLevels (encodeWord s.pCoverage d))) ∧
  (∀ (s : State) (r : Codeword) (n : Nat), cwLevels r ≠ s.decR →
    ∃ t, After [.drive none (some (cwLevels r)), .elapse n] s t ∧
      (n < Config.tPdDec → t.decQ = Config.freeDecQ (s.draws + 1)) ∧
      (Config.tPdDec ≤ n → t.decQ = dbLevels (decodeWord s.pCoverage r))) ∧
  (∀ (s : State) (l : CwLevels) (r : Codeword) (m n : Nat), m < Config.tPdDec → cwLevels r ≠ l →
    ∃ t, After [.drive none (some l), .elapse m, .drive none (some (cwLevels r)), .elapse n] s t ∧
      (n < Config.tPdDec → t.decQ = Config.freeDecQ (s.draws + 3)) ∧
      (Config.tPdDec ≤ n → t.decQ = dbLevels (decodeWord s.pCoverage r)))

/-- R155, the spec's own inference: where `enc_c` drives `dec_r` through the medium, `dec_q` is a free value until
`T_PD_ENC + T_PD_DEC` has passed since the last change of `enc_d`, and from then on DEC's function of what the
medium makes of the codeword. The connect action is the model's form of the connection (log 7). -/
def Obligations.DirectDriveSettlesAfterBothDelays : Prop :=
  ∀ (s : State) (d : DataBlock) (ps : List Position) (n : Nat), dbLevels d ≠ s.encD →
    ∃ t, After [.connect ps, .drive (some (dbLevels d)) none, .elapse n] s t ∧
      (n < Config.tPdEnc + Config.tPdDec → t.decQ = Config.freeDecQ (s.draws + 2)) ∧
      (Config.tPdEnc + Config.tPdDec ≤ n →
        t.decR = cwLevels (mediumWord ps (encodeWord s.pCoverage d)) ∧
        t.decQ = dbLevels (decodeWord s.pCoverage (mediumWord ps (encodeWord s.pCoverage d))))

/-! ### The host and the medium -/

/-- When the host's next action is a call whose argument has a text, and that text decodes to an operation, the
step is exec of that operation with the action taken off, and then keeps the text of the unit's output port in the
variable that the host names. -/
def Obligations.StepRunsTheDecodedCall : Prop :=
  ∀ (s t : State) (dst : Option HostVar) (u : UnitId) (arg : HostArg) (rest : List HostAction) (x : Text) (i : Instr),
    s.pending = .call dst u arg :: rest → argText arg s = some x → decode u x = .ok i →
    exec i { s with pending := rest } = .next t → step s = .next (keepResult dst (outputText u t) t)

/-- A table word placed by `withFetchWord` is run by the very next step, and nothing else is. -/
def Obligations.StepRunsTheTableWord : Prop :=
  (∀ (s : State) (d : DataBlock), step (s.withFetchWord 4 d.toNat) = exec (.encode (dbLevels d)) s) ∧
  (∀ (s : State) (r : Codeword), step (s.withFetchWord 8 r.toNat) = exec (.decode (cwLevels r)) s)

/-- R131, R132: a call on a text of the wrong shape is refused, naming the text, with no result; any other text is
driven on the port, and the result is the text of the settled output. -/
def Obligations.CallsAreCheckedThenRun : Prop :=
  ∀ (s : State) (v : HostVar) (u : UnitId) (x : Text) (rest : List HostAction),
    s.pending = .call (some v) u (.lit x) :: rest →
    (BadShape u x → step s = .refused (.invalidInputShape x)) ∧
    (¬ BadShape u x → u = .enc → ∃ t d, step s = .next t ∧ dbText (dbLevels d) = x ∧ t.encD = dbLevels d ∧
      readVar v t = some (cwText (cwLevels (encodeWord s.pCoverage d)))) ∧
    (¬ BadShape u x → u = .dec → ∃ t r, step s = .next t ∧ cwText (cwLevels r) = x ∧ t.decR = cwLevels r ∧
      readVar v t = some (dbText (dbLevels (decodeWord s.pCoverage r))))

/-- R71: `flip(c, i)` is `c ⊕ (1 << (7 - i))`, which inverts position `i` and no other; any positions may be
inverted in turn; the host's flip action keeps the inverted text in the variable, and drives no port: both input
ports, the settling times and the other variables stay. Where `enc_c` drives `dec_r`, `dec_r` follows `enc_c`: the model's
form of the connection (log 7). -/
def Obligations.MediumInvertsThePositions : Prop :=
  (∀ (c : Codeword) (i j : Position), cwAt (flipWord c i) j = (cwAt c j ^^ decide (j = i))) ∧
  (∀ c : Codeword, flipWord c 0 = c ^^^ 0x80#8 ∧ flipWord c 7 = c ^^^ 0x01#8) ∧
  (∀ (c : Codeword) (ps : List Position), mediumLevels ps (cwLevels c) = cwLevels (mediumWord ps c)) ∧
  (∀ (s : State) (v : HostVar) (c : Codeword) (ps : List Position) (rest : List HostAction),
    s.pending = .flip v (.lit (cwText (cwLevels c))) ps :: rest →
    ∃ t, step s = .next t ∧ t.pending = rest ∧ t.encD = s.encD ∧ t.link = s.link ∧
      t.encWait = s.encWait ∧ t.decWait = s.decWait ∧ (s.link = none → t.decR = s.decR) ∧
      (∀ qs, s.link = some qs → t.decR = mediumLevels qs t.encC) ∧
      (∀ w, w ≠ v → readVar w t = readVar w s) ∧
      readVar v t = some (cwText (cwLevels (ps.foldl (fun w i => w ^^^ (1#8 <<< (7 - i.val))) c))))

/-- R154, R155: a read takes the output port as it is at that moment, settled or not, and changes no input port
and no settling time. Where `enc_c` drives `dec_r`, `dec_r` follows `enc_c`: the model's form of the connection
(log 7). -/
def Obligations.SampleReadsThePortNow : Prop :=
  ∀ (s : State) (v : HostVar) (u : UnitId) (rest : List HostAction), s.pending = .sample v u :: rest →
    ∃ t, step s = .next t ∧ readVar v t = some (outputText u s) ∧ t.pending = rest ∧
      t.encD = s.encD ∧ t.encWait = s.encWait ∧ t.decWait = s.decWait ∧ t.link = s.link ∧
      (s.link = none → t.decR = s.decR) ∧ (∀ ps, s.link = some ps → t.decR = mediumLevels ps t.encC) ∧
      (∀ w, w ≠ v → readVar w t = readVar w s)

/-- A step is refused only at the host boundary: for the shape of a call's text, for an unset variable, or for a
text that is no codeword in the medium (the last two are the model's choice, log 8). -/
def Obligations.StepsStopOnlyAtTheHostBoundary : Prop :=
  ∀ (s : State) (e : Refusal), step s = .refused e → ∃ a rest, s.pending = a :: rest ∧
    ((∃ dst u arg x, a = .call dst u arg ∧ argText arg s = some x ∧ BadShape u x ∧ e = .invalidInputShape x) ∨
     (∃ v, readVar v s = none ∧ e = .unsetVariable v) ∨
     (∃ dst arg ps x, a = .flip dst arg ps ∧ argText arg s = some x ∧ x.length ≠ 8 ∧ e = .notACodeword x))

/-- A host that uses only set variables, and sends only 8 symbols through the medium, never stops the machine but
by a call of the wrong shape. -/
def Obligations.HostDutiesMakeTheStepSafe : Prop :=
  ∀ s : State, HostDutiesMet s → SafeStep s
end

