-- ==== Sys2Proof/Laws/State.lean ====
section
/-!
SUPPORT. What each shared operation does to each field of the state, field by field.
-/

namespace Sys2Proof.Machine

variable (s : State)

@[simp] theorem driveEnc_pCoverage (l : DbLevels) : (driveEnc l s).pCoverage = s.pCoverage := rfl
@[simp] theorem driveEnc_encD (l : DbLevels) : (driveEnc l s).encD = l := rfl
@[simp] theorem driveEnc_encC (l : DbLevels) : (driveEnc l s).encC = s.encC := rfl
@[simp] theorem driveEnc_decR (l : DbLevels) : (driveEnc l s).decR = s.decR := rfl
@[simp] theorem driveEnc_decQ (l : DbLevels) : (driveEnc l s).decQ = s.decQ := rfl
@[simp] theorem driveEnc_encWait (l : DbLevels) :
    (driveEnc l s).encWait =
      if l = s.encD then s.encWait else Config.tPdEnc := rfl
@[simp] theorem driveEnc_decWait (l : DbLevels) :
    (driveEnc l s).decWait =
      if l = s.encD then s.decWait else if s.link = none then s.decWait else Config.tPdEnc + Config.tPdDec := rfl
@[simp] theorem driveEnc_link (l : DbLevels) : (driveEnc l s).link = s.link := rfl
@[simp] theorem driveEnc_vars (l : DbLevels) : (driveEnc l s).vars = s.vars := rfl
@[simp] theorem driveEnc_pending (l : DbLevels) : (driveEnc l s).pending = s.pending := rfl
@[simp] theorem driveEnc_draws (l : DbLevels) : (driveEnc l s).draws = s.draws := rfl

@[simp] theorem driveDec_pCoverage (r : CwLevels) : (driveDec r s).pCoverage = s.pCoverage := rfl
@[simp] theorem driveDec_encD (r : CwLevels) : (driveDec r s).encD = s.encD := rfl
@[simp] theorem driveDec_encC (r : CwLevels) : (driveDec r s).encC = s.encC := rfl
@[simp] theorem driveDec_decR (r : CwLevels) : (driveDec r s).decR = r := rfl
@[simp] theorem driveDec_decQ (r : CwLevels) : (driveDec r s).decQ = s.decQ := rfl
@[simp] theorem driveDec_encWait (r : CwLevels) : (driveDec r s).encWait = s.encWait := rfl
@[simp] theorem driveDec_decWait (r : CwLevels) :
    (driveDec r s).decWait =
      if s.link = none ∧ r = s.decR then s.decWait else Config.tPdDec := rfl
@[simp] theorem driveDec_link (r : CwLevels) : (driveDec r s).link = none := rfl
@[simp] theorem driveDec_vars (r : CwLevels) : (driveDec r s).vars = s.vars := rfl
@[simp] theorem driveDec_pending (r : CwLevels) : (driveDec r s).pending = s.pending := rfl
@[simp] theorem driveDec_draws (r : CwLevels) : (driveDec r s).draws = s.draws := rfl

@[simp] theorem connectLink_pCoverage (ps : List Position) : (connectLink ps s).pCoverage = s.pCoverage := rfl
@[simp] theorem connectLink_encD (ps : List Position) : (connectLink ps s).encD = s.encD := rfl
@[simp] theorem connectLink_encC (ps : List Position) : (connectLink ps s).encC = s.encC := rfl
@[simp] theorem connectLink_decR (ps : List Position) : (connectLink ps s).decR = s.decR := rfl
@[simp] theorem connectLink_decQ (ps : List Position) : (connectLink ps s).decQ = s.decQ := rfl
@[simp] theorem connectLink_encWait (ps : List Position) : (connectLink ps s).encWait = s.encWait := rfl
@[simp] theorem connectLink_decWait (ps : List Position) :
    (connectLink ps s).decWait =
      s.encWait + Config.tPdDec := rfl
@[simp] theorem connectLink_link (ps : List Position) : (connectLink ps s).link = some ps := rfl
@[simp] theorem connectLink_vars (ps : List Position) : (connectLink ps s).vars = s.vars := rfl
@[simp] theorem connectLink_pending (ps : List Position) : (connectLink ps s).pending = s.pending := rfl
@[simp] theorem connectLink_draws (ps : List Position) : (connectLink ps s).draws = s.draws := rfl

@[simp] theorem elapse_pCoverage (t : Nat) : (elapse t s).pCoverage = s.pCoverage := rfl
@[simp] theorem elapse_encD (t : Nat) : (elapse t s).encD = s.encD := rfl
@[simp] theorem elapse_encC (t : Nat) : (elapse t s).encC = s.encC := rfl
@[simp] theorem elapse_decR (t : Nat) : (elapse t s).decR = s.decR := rfl
@[simp] theorem elapse_decQ (t : Nat) : (elapse t s).decQ = s.decQ := rfl
@[simp] theorem elapse_encWait (t : Nat) : (elapse t s).encWait = s.encWait - t := rfl
@[simp] theorem elapse_decWait (t : Nat) : (elapse t s).decWait = s.decWait - t := rfl
@[simp] theorem elapse_link (t : Nat) : (elapse t s).link = s.link := rfl
@[simp] theorem elapse_vars (t : Nat) : (elapse t s).vars = s.vars := rfl
@[simp] theorem elapse_pending (t : Nat) : (elapse t s).pending = s.pending := rfl
@[simp] theorem elapse_draws (t : Nat) : (elapse t s).draws = s.draws := rfl

@[simp] theorem settleEnc_pCoverage : (settleEnc s).pCoverage = s.pCoverage := rfl
@[simp] theorem settleEnc_encD : (settleEnc s).encD = s.encD := rfl
@[simp] theorem settleEnc_encC : (settleEnc s).encC = s.encC := rfl
@[simp] theorem settleEnc_decR : (settleEnc s).decR = s.decR := rfl
@[simp] theorem settleEnc_decQ : (settleEnc s).decQ = s.decQ := rfl
@[simp] theorem settleEnc_encWait : (settleEnc s).encWait = 0 := rfl
@[simp] theorem settleEnc_decWait : (settleEnc s).decWait = s.decWait - s.encWait := rfl
@[simp] theorem settleEnc_link : (settleEnc s).link = s.link := rfl
@[simp] theorem settleEnc_vars : (settleEnc s).vars = s.vars := rfl
@[simp] theorem settleEnc_pending : (settleEnc s).pending = s.pending := rfl
@[simp] theorem settleEnc_draws : (settleEnc s).draws = s.draws := rfl

@[simp] theorem settleDec_pCoverage : (settleDec s).pCoverage = s.pCoverage := rfl
@[simp] theorem settleDec_encD : (settleDec s).encD = s.encD := rfl
@[simp] theorem settleDec_encC : (settleDec s).encC = s.encC := rfl
@[simp] theorem settleDec_decR : (settleDec s).decR = s.decR := rfl
@[simp] theorem settleDec_decQ : (settleDec s).decQ = s.decQ := rfl
@[simp] theorem settleDec_encWait : (settleDec s).encWait = s.encWait - s.decWait := rfl
@[simp] theorem settleDec_decWait : (settleDec s).decWait = 0 := rfl
@[simp] theorem settleDec_link : (settleDec s).link = s.link := rfl
@[simp] theorem settleDec_vars : (settleDec s).vars = s.vars := rfl
@[simp] theorem settleDec_pending : (settleDec s).pending = s.pending := rfl
@[simp] theorem settleDec_draws : (settleDec s).draws = s.draws := rfl

@[simp] theorem settleBoth_pCoverage : (settleBoth s).pCoverage = s.pCoverage := rfl
@[simp] theorem settleBoth_encD : (settleBoth s).encD = s.encD := rfl
@[simp] theorem settleBoth_encC : (settleBoth s).encC = s.encC := rfl
@[simp] theorem settleBoth_decR : (settleBoth s).decR = s.decR := rfl
@[simp] theorem settleBoth_decQ : (settleBoth s).decQ = s.decQ := rfl
@[simp] theorem settleBoth_encWait : (settleBoth s).encWait = 0 := rfl
@[simp] theorem settleBoth_decWait : (settleBoth s).decWait = 0 := rfl
@[simp] theorem settleBoth_link : (settleBoth s).link = s.link := rfl
@[simp] theorem settleBoth_vars : (settleBoth s).vars = s.vars := rfl
@[simp] theorem settleBoth_pending : (settleBoth s).pending = s.pending := rfl
@[simp] theorem settleBoth_draws : (settleBoth s).draws = s.draws := rfl

@[simp] theorem refresh_pCoverage : (refresh s).pCoverage = s.pCoverage := rfl
@[simp] theorem refresh_encD : (refresh s).encD = s.encD := rfl
@[simp] theorem refresh_encC : (refresh s).encC = encOutput s := rfl
@[simp] theorem refresh_decR : (refresh s).decR = decInput s (encOutput s) := rfl
@[simp] theorem refresh_decQ : (refresh s).decQ = decOutput s (decInput s (encOutput s)) := rfl
@[simp] theorem refresh_encWait : (refresh s).encWait = s.encWait := rfl
@[simp] theorem refresh_decWait : (refresh s).decWait = s.decWait := rfl
@[simp] theorem refresh_link : (refresh s).link = s.link := rfl
@[simp] theorem refresh_vars : (refresh s).vars = s.vars := rfl
@[simp] theorem refresh_pending : (refresh s).pending = s.pending := rfl
@[simp] theorem refresh_draws : (refresh s).draws = s.draws + 1 := rfl

@[simp] theorem setVar_pCoverage (v : HostVar) (t : Text) : (setVar v t s).pCoverage = s.pCoverage := by cases v <;> rfl
@[simp] theorem setVar_encD (v : HostVar) (t : Text) : (setVar v t s).encD = s.encD := by cases v <;> rfl
@[simp] theorem setVar_encC (v : HostVar) (t : Text) : (setVar v t s).encC = s.encC := by cases v <;> rfl
@[simp] theorem setVar_decR (v : HostVar) (t : Text) : (setVar v t s).decR = s.decR := by cases v <;> rfl
@[simp] theorem setVar_decQ (v : HostVar) (t : Text) : (setVar v t s).decQ = s.decQ := by cases v <;> rfl
@[simp] theorem setVar_encWait (v : HostVar) (t : Text) : (setVar v t s).encWait = s.encWait := by cases v <;> rfl
@[simp] theorem setVar_decWait (v : HostVar) (t : Text) : (setVar v t s).decWait = s.decWait := by cases v <;> rfl
@[simp] theorem setVar_link (v : HostVar) (t : Text) : (setVar v t s).link = s.link := by cases v <;> rfl
@[simp] theorem setVar_pending (v : HostVar) (t : Text) : (setVar v t s).pending = s.pending := by cases v <;> rfl
@[simp] theorem setVar_draws (v : HostVar) (t : Text) : (setVar v t s).draws = s.draws := by cases v <;> rfl

@[simp] theorem keepResult_pCoverage (v : Option HostVar) (t : Text) : (keepResult v t s).pCoverage = s.pCoverage := by cases v <;> simp [keepResult]
@[simp] theorem keepResult_encD (v : Option HostVar) (t : Text) : (keepResult v t s).encD = s.encD := by cases v <;> simp [keepResult]
@[simp] theorem keepResult_encC (v : Option HostVar) (t : Text) : (keepResult v t s).encC = s.encC := by cases v <;> simp [keepResult]
@[simp] theorem keepResult_decR (v : Option HostVar) (t : Text) : (keepResult v t s).decR = s.decR := by cases v <;> simp [keepResult]
@[simp] theorem keepResult_decQ (v : Option HostVar) (t : Text) : (keepResult v t s).decQ = s.decQ := by cases v <;> simp [keepResult]
@[simp] theorem keepResult_encWait (v : Option HostVar) (t : Text) : (keepResult v t s).encWait = s.encWait := by cases v <;> simp [keepResult]
@[simp] theorem keepResult_decWait (v : Option HostVar) (t : Text) : (keepResult v t s).decWait = s.decWait := by cases v <;> simp [keepResult]
@[simp] theorem keepResult_link (v : Option HostVar) (t : Text) : (keepResult v t s).link = s.link := by cases v <;> simp [keepResult]
@[simp] theorem keepResult_pending (v : Option HostVar) (t : Text) : (keepResult v t s).pending = s.pending := by cases v <;> simp [keepResult]
@[simp] theorem keepResult_draws (v : Option HostVar) (t : Text) : (keepResult v t s).draws = s.draws := by cases v <;> simp [keepResult]

@[simp] theorem readVar_setVar_same (v : HostVar) (t : Text) : readVar v (setVar v t s) = some t := by
  cases v <;> rfl

theorem readVar_setVar_other (v w : HostVar) (t : Text) (h : v ≠ w) :
    readVar v (setVar w t s) = readVar v s := by
  cases v <;> cases w <;> first | rfl | exact absurd rfl h

@[simp] theorem keepResult_none (t : Text) : keepResult none t s = s := rfl

@[simp] theorem keepResult_some (v : HostVar) (t : Text) : keepResult (some v) t s = setVar v t s := rfl

@[simp] theorem readVar_refresh (v : HostVar) : readVar v (refresh s) = readVar v s := by cases v <;> rfl

end Sys2Proof.Machine
end

