-- ==== Sys2Proof/Laws/Words.lean ====
section
/-!
SUPPORT. Words, levels and fields: each conversion undoes the other, and the medium acts alike on both.
-/

namespace Sys2Proof.Machine

@[simp] theorem levelBit_bitLevel (b : Bool) : levelBit (bitLevel b) = some b := by cases b <;> rfl

theorem levelBit_eq_some {l : Level} {b : Bool} : levelBit l = some b ↔ l = bitLevel b := by
  cases l <;> cases b <;> simp [levelBit, bitLevel]

theorem bitLevel_injective {a b : Bool} (h : bitLevel a = bitLevel b) : a = b := by
  have := congrArg levelBit h
  simpa using this

theorem packDb_fields (d : DataBlock) : packDb (dbAt d 0) (dbAt d 1) (dbAt d 2) (dbAt d 3) = d := by
  revert d; decide

theorem packCw_fields (c : Codeword) :
    packCw (cwAt c 0) (cwAt c 1) (cwAt c 2) (cwAt c 3) (cwAt c 4) (cwAt c 5) (cwAt c 6) (cwAt c 7) = c := by
  revert c; decide

@[simp] theorem dbAt_packDb_0 (a b c d : Bool) : dbAt (packDb a b c d) 0 = a := by revert a b c d; decide
@[simp] theorem dbAt_packDb_1 (a b c d : Bool) : dbAt (packDb a b c d) 1 = b := by revert a b c d; decide
@[simp] theorem dbAt_packDb_2 (a b c d : Bool) : dbAt (packDb a b c d) 2 = c := by revert a b c d; decide
@[simp] theorem dbAt_packDb_3 (a b c d : Bool) : dbAt (packDb a b c d) 3 = d := by revert a b c d; decide

section
variable (p h1 h2 h3 a b c d : Bool)

@[simp] theorem cwAt_packCw_0 : cwAt (packCw p h1 h2 h3 a b c d) 0 = p := by revert p h1 h2 h3 a b c d; decide
@[simp] theorem cwAt_packCw_1 : cwAt (packCw p h1 h2 h3 a b c d) 1 = h1 := by revert p h1 h2 h3 a b c d; decide
@[simp] theorem cwAt_packCw_2 : cwAt (packCw p h1 h2 h3 a b c d) 2 = h2 := by revert p h1 h2 h3 a b c d; decide
@[simp] theorem cwAt_packCw_3 : cwAt (packCw p h1 h2 h3 a b c d) 3 = h3 := by revert p h1 h2 h3 a b c d; decide
@[simp] theorem cwAt_packCw_4 : cwAt (packCw p h1 h2 h3 a b c d) 4 = a := by revert p h1 h2 h3 a b c d; decide
@[simp] theorem cwAt_packCw_5 : cwAt (packCw p h1 h2 h3 a b c d) 5 = b := by revert p h1 h2 h3 a b c d; decide
@[simp] theorem cwAt_packCw_6 : cwAt (packCw p h1 h2 h3 a b c d) 6 = c := by revert p h1 h2 h3 a b c d; decide
@[simp] theorem cwAt_packCw_7 : cwAt (packCw p h1 h2 h3 a b c d) 7 = d := by revert p h1 h2 h3 a b c d; decide

end

/-- The levels of a packed data block, field by field. -/
theorem dbLevels_packDb (a b c d : Bool) :
    dbLevels (packDb a b c d) = ⟨bitLevel a, bitLevel b, bitLevel c, bitLevel d⟩ := by
  simp [dbLevels]

/-- The levels of a packed codeword, field by field. -/
theorem cwLevels_packCw (p h1 h2 h3 a b c d : Bool) :
    cwLevels (packCw p h1 h2 h3 a b c d) =
      ⟨bitLevel p, bitLevel h1, bitLevel h2, bitLevel h3, bitLevel a, bitLevel b, bitLevel c, bitLevel d⟩ := by
  simp [cwLevels]

@[simp] theorem dbWord_dbLevels (d : DataBlock) : dbWord (dbLevels d) = some d := by
  simp [dbWord, dbLevels, packDb_fields]

@[simp] theorem cwWord_cwLevels (c : Codeword) : cwWord (cwLevels c) = some c := by
  simp [cwWord, cwLevels, packCw_fields]

/-- A port carries the word `d` exactly when its levels are those of `d`. -/
theorem dbWord_eq_some {l : DbLevels} {d : DataBlock} : dbWord l = some d ↔ l = dbLevels d := by
  refine ⟨fun h => ?_, fun h => by simp [h]⟩
  obtain ⟨a, b, c, e⟩ := l
  unfold dbWord at h
  split at h
  · rename_i _ _ _ _ ha hb hc he
    simp only [levelBit_eq_some] at ha hb hc he
    cases h
    simp [dbLevels_packDb, ← ha, ← hb, ← hc, ← he]
  · cases h

/-- A port carries the word `c` exactly when its levels are those of `c`. -/
theorem cwWord_eq_some {l : CwLevels} {c : Codeword} : cwWord l = some c ↔ l = cwLevels c := by
  refine ⟨fun h => ?_, fun h => by simp [h]⟩
  obtain ⟨p, h1, h2, h3, a, b, x, e⟩ := l
  unfold cwWord at h
  split at h
  · rename_i _ _ _ _ hp hh1 hh2 hh3
    split at h
    · rename_i _ _ _ _ ha hb hx he
      simp only [levelBit_eq_some] at hp hh1 hh2 hh3 ha hb hx he
      cases h
      simp [cwLevels_packCw, ← hp, ← hh1, ← hh2, ← hh3, ← ha, ← hb, ← hx, ← he]
    · cases h
  · cases h

theorem dbLevels_injective {a b : DataBlock} (h : dbLevels a = dbLevels b) : a = b := by
  simpa using congrArg dbWord h

theorem cwLevels_injective {a b : Codeword} (h : cwLevels a = cwLevels b) : a = b := by
  simpa using congrArg cwWord h

/-- The bit that `flip(c, i)` inverts is the bit at position `i` (R71). -/
theorem cwAt_flipWord (c : Codeword) (i j : Position) : cwAt (flipWord c i) j = (cwAt c j ^^ decide (j = i)) := by
  have mask : (1#8 <<< (7 - i.val)).getLsbD (7 - j.val) = decide (j = i) := by revert i j; decide
  simp [cwAt, flipWord, BitVec.getLsbD_xor, mask]

theorem flipLevel_bitLevel (b : Bool) : flipLevel (bitLevel b) = bitLevel (b ^^ true) := by cases b <;> rfl

/-- The medium inverts the same bit of a word and of its levels (R71). -/
theorem flipLevels_cwLevels (c : Codeword) (i : Position) : flipLevels (cwLevels c) i = cwLevels (flipWord c i) := by
  have at_ (j : Position) : (if i = j then flipLevel (bitLevel (cwAt c j)) else bitLevel (cwAt c j)) =
      bitLevel (cwAt (flipWord c i) j) := by
    rw [cwAt_flipWord, flipLevel_bitLevel]
    by_cases h : i = j
    · simp [h]
    · simp [h, Ne.symm h]
  simp only [flipLevels, cwLevels, CwLevels.mk.injEq]
  exact ⟨at_ 0, at_ 1, at_ 2, at_ 3, at_ 4, at_ 5, at_ 6, at_ 7⟩

theorem mediumLevels_cwLevels (ps : List Position) (c : Codeword) :
    mediumLevels ps (cwLevels c) = cwLevels (mediumWord ps c) := by
  induction ps generalizing c with
  | nil => rfl
  | cons i ps ih => simpa [mediumLevels, mediumWord, flipLevels_cwLevels] using ih (flipWord c i)

end Sys2Proof.Machine
end

