-- ==== Sys2Proof/Laws/Ops.lean ====
section
/-!
SUPPORT. What each shared operation over the ports can do, said once.
-/

namespace Sys2Proof.Machine

variable {s : State}

/-- A settled ENC drives the function of its binary input (R80, R154). -/
theorem encOutput_settled {d : DataBlock} (hw : s.encWait = 0) (hd : s.encD = dbLevels d) :
    encOutput s = cwLevels (encodeWord s.pCoverage d) := by
  simp [encOutput, hw, hd]

/-- An ENC that has not settled drives any value (R154). -/
theorem encOutput_unsettled (hw : s.encWait ≠ 0) : encOutput s = Config.freeEncC s.draws := by
  unfold encOutput
  split
  · rename_i h _; exact absurd h hw
  · rfl

/-- An ENC whose input is not binary drives any value (R134). -/
theorem encOutput_nonBinary (hd : dbWord s.encD = none) : encOutput s = Config.freeEncC s.draws := by
  simp [encOutput, hd]

/-- A host-driven `dec_r` holds still. -/
theorem decInputSteady_host (hl : s.link = none) : decInputSteady s = true := by
  simp [decInputSteady, hl]

/-- A `dec_r` driven by a settled ENC with a binary input holds still (R155). -/
theorem decInputSteady_link {d : DataBlock} (hw : s.encWait = 0) (hd : s.encD = dbLevels d) :
    decInputSteady s = true := by
  unfold decInputSteady
  split <;> simp [hw, hd]

/-- A settled DEC whose input holds still drives the function of its binary input (R100, R154). -/
theorem decOutput_settled {l : CwLevels} {r : Codeword} (hi : decInputSteady s = true) (hw : s.decWait = 0)
    (hr : l = cwLevels r) : decOutput s l = dbLevels (decodeWord s.pCoverage r) := by
  simp [decOutput, hi, hw, hr]

/-- A DEC that has not settled drives any value (R154). -/
theorem decOutput_unsettled {l : CwLevels} (hw : s.decWait ≠ 0) : decOutput s l = Config.freeDecQ s.draws := by
  unfold decOutput
  split
  · rename_i h _; exact absurd h hw
  · rfl

/-- A DEC whose input is not binary drives any value (R134). -/
theorem decOutput_nonBinary {l : CwLevels} (hr : cwWord l = none) : decOutput s l = Config.freeDecQ s.draws := by
  simp [decOutput, hr]

/-- Waiting until ENC has settled is letting what is left of its delay pass. -/
theorem settleEnc_eq_elapse (s : State) : settleEnc s = elapse s.encWait s := by
  simp [settleEnc, elapse]

/-- Waiting until DEC has settled is letting what is left of its delay pass. -/
theorem settleDec_eq_elapse (s : State) : settleDec s = elapse s.decWait s := by
  simp [settleDec, elapse]

/-- Waiting until both have settled is letting the longer of the two delays pass. -/
theorem settleBoth_eq_elapse (s : State) : settleBoth s = elapse (max s.encWait s.decWait) s := by
  have h1 : s.encWait - max s.encWait s.decWait = 0 := by omega
  have h2 : s.decWait - max s.encWait s.decWait = 0 := by omega
  simp [settleBoth, elapse, h1, h2]

/-- A call either names the rejected text or is the operation, and then keeps its result (R131, R132). -/
theorem runCall_cases (dst : Option HostVar) (u : UnitId) (t : Text) (s : State) :
    (decode u t = .error (.invalidInputShape t) ∧ runCall dst u t s = .refused (.invalidInputShape t)) ∨
    ∃ i s', decode u t = .ok i ∧ exec i s = .next s' ∧
      runCall dst u t s = .next (keepResult dst (outputText u s') s') := by
  cases u <;> simp only [runCall, decode] <;> split <;> rename_i h
  all_goals first
    | exact .inr ⟨_, _, rfl, rfl, rfl⟩
    | exact .inl ⟨rfl, rfl⟩

/-- An action that needs an argument either has its text or is refused by name. -/
theorem withArg_cases (a : HostArg) (s : State) (k : Text → Host.Outcome State Fault Refusal) :
    (∃ t, argText a s = some t ∧ withArg a s k = k t) ∨
    ∃ v, a = .var v ∧ readVar v s = none ∧ withArg a s k = .refused (.unsetVariable v) := by
  cases a with
  | lit t => exact .inl ⟨t, rfl, rfl⟩
  | var v =>
    cases h : readVar v s with
    | none => exact .inr ⟨v, rfl, h, by simp [withArg, h]⟩
    | some t => exact .inl ⟨t, by simp [argText, h], by simp [withArg, h]⟩

end Sys2Proof.Machine
end

