-- ==== Sys2Proof/Laws/PerInstr.lean ====
section
/-!
SUPPORT. Statements about every operation as text, one lemma per constructor.
-/

/-- An operation's text is for its own unit and has exactly that unit's width (R65, R69). -/
def Sys2Proof.Laws.EncodedWidth.Statement (i : Sys2Proof.Instr) : Prop :=
  (Sys2Proof.encode i).1 = i.unit ∧ (Sys2Proof.encode i).2.length = i.unit.operandWidth

theorem Sys2Proof.Laws.EncodedWidth.encode (d : Sys2Proof.DbLevels) :
    Sys2Proof.Laws.EncodedWidth.Statement (.encode d) := ⟨rfl, rfl⟩

theorem Sys2Proof.Laws.EncodedWidth.decode (r : Sys2Proof.CwLevels) :
    Sys2Proof.Laws.EncodedWidth.Statement (.decode r) := ⟨rfl, rfl⟩
end

