-- ==== Sys2Proof/Tests/Slice0.lean ====
section
/-!
SUPPORT. The model's own tests: expected values are the spec's tables and worked examples, named at each test; and
one witness for the hypotheses of each statement in Certificates/Slice0/Obligations.lean.
-/

namespace Sys2Proof.Tests

open Sys2Proof.Machine

/-- The next state of an outcome, if it is one. -/
def nextOf (o : Host.Outcome State Fault Refusal) : Option State :=
  match o with
  | .next t => some t
  | .fault _ => none
  | .refused _ => none

/-- The refusal of an outcome, if it is one. -/
def refusalOf (o : Host.Outcome State Fault Refusal) : Option Refusal :=
  match o with
  | .next _ => none
  | .fault _ => none
  | .refused e => some e

/-- A settled block of build `cov` holding the data 0x5 and the received word 0x01 (95_test_vectors.md 2, 4.1,
4.2: the codeword of 0x5 is 0xA5 or 0x25, and 0x01 decodes to 0x0 in both builds). -/
def quiet (cov : PCoverage) : State where
  pCoverage := cov
  encD := dbLevels 0x5#4
  encC := cwLevels (match cov with | .all7 => 0xA5#8 | .data4 => 0x25#8)
  decR := cwLevels 0x01#8
  decQ := dbLevels 0x0#4
  encWait := 0
  decWait := 0
  link := none
  vars := ⟨none, none, none, none⟩
  pending := []
  draws := 7

/-- The same block with these actions to come. -/
def busy (acts : List HostAction) : State := { quiet .all7 with pending := acts }

/-! ### Well-formedness: one ill-formed term for each check, and one that passes -/

theorem test_wf_refuses_d1 : (Instr.encode ⟨.other, .low, .low, .low⟩).wellFormed = false := by decide
theorem test_wf_refuses_d2 : (Instr.encode ⟨.low, .other, .low, .low⟩).wellFormed = false := by decide
theorem test_wf_refuses_d3 : (Instr.encode ⟨.low, .low, .other, .low⟩).wellFormed = false := by decide
theorem test_wf_refuses_d4 : (Instr.encode ⟨.low, .low, .low, .other⟩).wellFormed = false := by decide
theorem test_wf_accepts_encode : (Instr.encode ⟨.high, .low, .high, .low⟩).wellFormed = true := by decide

/-- The check of each position of a received word refuses a level there that is neither 0 nor 1. -/
theorem test_wf_refuses_each_received_bit :
    (Instr.decode ⟨.other, .low, .low, .low, .low, .low, .low, .low⟩).wellFormed = false ∧
    (Instr.decode ⟨.low, .other, .low, .low, .low, .low, .low, .low⟩).wellFormed = false ∧
    (Instr.decode ⟨.low, .low, .other, .low, .low, .low, .low, .low⟩).wellFormed = false ∧
    (Instr.decode ⟨.low, .low, .low, .other, .low, .low, .low, .low⟩).wellFormed = false ∧
    (Instr.decode ⟨.low, .low, .low, .low, .other, .low, .low, .low⟩).wellFormed = false ∧
    (Instr.decode ⟨.low, .low, .low, .low, .low, .other, .low, .low⟩).wellFormed = false ∧
    (Instr.decode ⟨.low, .low, .low, .low, .low, .low, .other, .low⟩).wellFormed = false ∧
    (Instr.decode ⟨.low, .low, .low, .low, .low, .low, .low, .other⟩).wellFormed = false := by decide
theorem test_wf_accepts_decode :
    (Instr.decode ⟨.high, .high, .low, .high, .high, .low, .high, .low⟩).wellFormed = true := by decide

/-! ### Decoding: words written out from R61, R62, R63 -/

/-- R63: "1010" is the data block D1 = 1, D2 = 0, D3 = 1, D4 = 0. -/
theorem test_decode_encode_text :
    decode .enc ['1', '0', '1', '0'] = .ok (.encode ⟨.high, .low, .high, .low⟩) := by rfl

/-- 95_test_vectors.md L1-3: "11011010" is P = 1, H1 = 1, H2 = 0, H3 = 1, data 1010. -/
theorem test_decode_decode_text :
    decode .dec ['1', '1', '0', '1', '1', '0', '1', '0'] =
      .ok (.decode ⟨.high, .high, .low, .high, .high, .low, .high, .low⟩) := by rfl

/-- R61: bit 0 of an ENCODE word is D4. -/
theorem test_table_word_encode : decodeTableWord 4 0x1 = some (.encode ⟨.low, .low, .low, .high⟩) := by decide

/-- R62: bit 6 of a DECODE word is H1. -/
theorem test_table_word_decode :
    decodeTableWord 8 0x40 = some (.decode ⟨.low, .high, .low, .low, .low, .low, .low, .low⟩) := by decide

/-- 95_test_vectors.md Program 6: the three rejected calls. -/
theorem test_bad_shapes_are_rejected :
    decode .enc ['1', '0', 'a', '0'] = .error (.invalidInputShape ['1', '0', 'a', '0']) ∧
    decode .dec ['0', '1', '0', '1', '1', '0', '1'] =
      .error (.invalidInputShape ['0', '1', '0', '1', '1', '0', '1']) ∧
    decode .dec ['0', '1', '0', '1', '1', '0', '1', '0', '2'] =
      .error (.invalidInputShape ['0', '1', '0', '1', '1', '0', '1', '0', '2']) := ⟨rfl, rfl, rfl⟩

/-- R70: the source's call form. -/
theorem test_call_form :
    parseCall ['e', 'n', 'c', 'o', 'd', 'e', '(', '"', '1', '0', '"', ')'] = some (.enc, ['1', '0']) := by decide

theorem test_encoded_width (i : Instr) : Sys2Proof.Laws.EncodedWidth.Statement i := by
  cases i with
  | encode d => exact Sys2Proof.Laws.EncodedWidth.encode d
  | decode r => exact Sys2Proof.Laws.EncodedWidth.decode r

/-! ### One step of each operation -/

/-- 95_test_vectors.md section 2, row 0x1, ALL7: 0x71. -/
theorem test_encode_all7 :
    (nextOf (exec (.encode (dbLevels 0x1#4)) (quiet .all7))).map (·.encC) = some (cwLevels 0x71#8) := by decide

/-- 95_test_vectors.md section 2, row 0x1, DATA4: 0xF1. -/
theorem test_encode_data4 :
    (nextOf (exec (.encode (dbLevels 0x1#4)) (quiet .data4))).map (·.encC) = some (cwLevels 0xF1#8) := by decide

/-- 95_test_vectors.md section 4, spot check 0x79, ALL7: row 2, 0x1. -/
theorem test_decode_all7 :
    (nextOf (exec (.decode (cwLevels 0x79#8)) (quiet .all7))).map (·.decQ) = some (dbLevels 0x1#4) := by decide

/-- 95_test_vectors.md section 4.2, row B, column 3, DATA4: 0x2. -/
theorem test_decode_data4 :
    (nextOf (exec (.decode (cwLevels 0xB3#8)) (quiet .data4))).map (·.decQ) = some (dbLevels 0x2#4) := by decide

/-- 95_test_vectors.md Program 1, line 1, as the first step after power-up. -/
theorem test_step_runs_the_table_word :
    (nextOf (step (State.reset.withFetchWord 4 0xA))).map (·.encC) = some (cwLevels 0x5A#8) := by decide

/-- 95_test_vectors.md Program 1, line 2: the medium inverts P of 0x5A. -/
theorem test_step_medium :
    (nextOf (step (busy [.flip .r (.lit ['0', '1', '0', '1', '1', '0', '1', '0']) [0]]))).map (·.vars.r) =
      some (some ['1', '1', '0', '1', '1', '0', '1', '0']) := by decide

/-- R132: the refusal names the rejected input. -/
theorem test_step_refuses_bad_shape :
    refusalOf (step (busy [.call (some .c) .enc (.lit ['1', '0', 'a', '0'])])) =
      some (.invalidInputShape ['1', '0', 'a', '0']) := by decide

/-! ### Witnesses: states and operands that meet the hypotheses of each statement -/

theorem quiet_coherent (cov : PCoverage) : (quiet cov).Coherent where
  encFollows := by cases cov <;> intro _ d h <;> revert h <;> revert d <;> decide
  linkFollows := by intro ps h; cases h
  decFollows := by
    intro _ _ r h
    cases cwLevels_injective (a := 0x01#8) h
    cases cov <;> decide
  encDelay := Nat.zero_le _
  decDelay := fun _ => Nat.zero_le _
  linkDelay := fun h => absurd rfl h
  linkOrder := fun h => absurd rfl h

theorem witness_step_from_coherent : ∃ s t : State, s.Coherent ∧ step s = .next t :=
  ⟨quiet .all7, _, quiet_coherent .all7, rfl⟩

theorem witness_DecodeOfEncodeIsTheOperation :
    (Instr.encode (dbLevels 0x0#4)).wellFormed = true ∧ (Instr.decode (cwLevels 0xFF#8)).wellFormed = true := by
  decide

theorem witness_EncodeOfDecodeIsTheText :
    decode .enc ['0', '0', '0', '0'] = .ok (.encode (dbLevels 0x0#4)) ∧
    decode .dec ['1', '1', '1', '1', '1', '1', '1', '1'] = .ok (.decode (cwLevels 0xFF#8)) := ⟨rfl, rfl⟩

theorem witness_good_shapes :
    ¬ BadShape .enc ['0', '0', '0', '0'] ∧ ¬ BadShape .enc ['1', '1', '1', '1'] ∧
    ¬ BadShape .dec ['0', '0', '0', '0', '0', '0', '0', '0'] := by
  simp [BadShape, UnitId.operandWidth]

theorem witness_bad_shapes :
    BadShape .enc ['0', '0', '0'] ∧ BadShape .enc ['0', '0', '0', '0', '0'] ∧ BadShape .enc ['0', '0', '0', '2'] ∧
    BadShape .dec ['0', '0', '0', '0'] := by
  simp [BadShape, UnitId.operandWidth]

theorem witness_both_builds : (quiet .all7).pCoverage = .all7 ∧ (quiet .data4).pCoverage = .data4 ∧
    (quiet .all7).pCoverage ≠ (quiet .data4).pCoverage := by decide

/-- Third clause of EncodeFollowsItsRule, at D4 = 0 and D4 = 1. -/
theorem witness_EncodeFollowsItsRule :
    EncodesTo (quiet .all7) (dbLevels 0x8#4) (cwLevels 0xE8#8) ∧
    EncodesTo (quiet .data4) (dbLevels 0x8#4) (cwLevels 0xE8#8) ∧
    EncodesTo (quiet .all7) (dbLevels 0x1#4) (cwLevels 0x71#8) ∧
    EncodesTo (quiet .data4) (dbLevels 0x1#4) (cwLevels 0xF1#8) := by
  refine ⟨⟨_, rfl, ?_, ?_, ?_⟩, ⟨_, rfl, ?_, ?_, ?_⟩, ⟨_, rfl, ?_, ?_, ?_⟩, ⟨_, rfl, ?_, ?_, ?_⟩⟩ <;> decide

/-- The block of `quiet .all7` with its units joined through a medium that inverts H3, and DEC not settled yet. -/
def joined : State :=
  { quiet .all7 with link := some [3], decR := mediumLevels [3] (quiet .all7).encC, decWait := 1 }

theorem joined_coherent : joined.Coherent := by
  refine ⟨(quiet_coherent .all7).encFollows, ?_, ?_, Nat.zero_le _, ?_, ?_, fun _ => Nat.zero_le _⟩
  · intro ps h; cases h; rfl
  · intro h; cases h
  · intro h; cases h
  · intro _; show 1 ≤ Config.tPdEncBeyondFirst + 1 + _; omega

/-- EncodeFrame with a host-driven, settled, binary `dec_r`, and with the units joined: a changed operand, and the
operand that `enc_d` already holds. -/
theorem witness_EncodeFrame :
    (∃ t, (quiet .all7).Coherent ∧ exec (.encode (dbLevels 0x1#4)) (quiet .all7) = .next t ∧
      (quiet .all7).link = none ∧ (quiet .all7).decWait = 0 ∧ (quiet .all7).decR.binary = true) ∧
    (∃ t, joined.Coherent ∧ exec (.encode (dbLevels 0x1#4)) joined = .next t ∧ joined.link = some [3] ∧
      dbLevels 0x1#4 ≠ joined.encD) ∧
    (∃ t, joined.Coherent ∧ exec (.encode (dbLevels 0x5#4)) joined = .next t ∧ joined.link = some [3] ∧
      dbLevels 0x5#4 = joined.encD) :=
  ⟨⟨_, quiet_coherent .all7, rfl, rfl, rfl, by decide⟩, ⟨_, joined_coherent, rfl, rfl, by decide⟩,
    ⟨_, joined_coherent, rfl, rfl, rfl⟩⟩

theorem witness_DecodeFrame :
    ∃ t, (quiet .all7).Coherent ∧ exec (.decode (cwLevels 0x79#8)) (quiet .all7) = .next t ∧
      (quiet .all7).encWait = 0 ∧ (quiet .all7).encD.binary = true :=
  ⟨_, quiet_coherent .all7, rfl, rfl, by decide⟩

/-- Received words for each row of R105 and for Step 1 passing: 0x00, 0x70, 0x79, 0x75, 0x73, 0xF1, 0x31. -/
theorem witness_rows_of_the_correction :
    parOk .all7 0x00#8 = true ∧ weightParity 0x00#8 = false ∧
    (parOk .all7 0x70#8 = false ∧ syndrome1 0x70#8 = true ∧ syndrome2 0x70#8 = true ∧ syndrome3 0x70#8 = true) ∧
    (parOk .all7 0x79#8 = false ∧ syndrome1 0x79#8 = true ∧ syndrome2 0x79#8 = true ∧ syndrome3 0x79#8 = false) ∧
    (parOk .all7 0x75#8 = false ∧ syndrome1 0x75#8 = true ∧ syndrome2 0x75#8 = false ∧ syndrome3 0x75#8 = true) ∧
    (parOk .all7 0x73#8 = false ∧ syndrome1 0x73#8 = false ∧ syndrome2 0x73#8 = true ∧ syndrome3 0x73#8 = true) ∧
    (parOk .all7 0xF1#8 = false ∧ [syndrome1 0xF1#8, syndrome2 0xF1#8, syndrome3 0xF1#8].countP id ≤ 1) ∧
    (parOk .all7 0x31#8 = false ∧ [syndrome1 0x31#8, syndrome2 0x31#8, syndrome3 0x31#8].countP id ≤ 1) := by
  decide

theorem witness_SingleErrorsAreRecovered :
    ∃ t, exec (.encode (dbLevels 0x1#4)) (quiet .all7) = .next t ∧ t.encC = cwLevels 0x71#8 ∧
      (quiet .all7).pCoverage = State.reset.pCoverage ∧ AtMostOneFlip 0x71#8 0x71#8 ∧ AtMostOneFlip 0x71#8 0xF1#8 :=
  ⟨_, rfl, by decide, rfl, by unfold AtMostOneFlip; decide, by unfold AtMostOneFlip; decide⟩

/-- DirectLinkReturnsTheData: no flip, and a flip of the first and of the last position. -/
theorem witness_DirectLinkReturnsTheData :
    ([] : List Position).length ≤ 1 ∧ ([0] : List Position).length ≤ 1 ∧ ([7] : List Position).length ≤ 1 := by
  decide

theorem witness_DecodeEqualsSumOfProducts :
    ∃ e s1 s2 s3 : Bool, e = !parOk (quiet .all7).pCoverage 0x79#8 ∧ s1 = syndrome1 0x79#8 ∧
      s2 = syndrome2 0x79#8 ∧ s3 = syndrome3 0x79#8 := ⟨true, true, true, false, by decide⟩

theorem witness_EvenFlipsPassUncorrected :
    ∃ t, exec (.encode (dbLevels 0xA#4)) (quiet .all7) = .next t ∧ ([4, 5] : List Position).length % 2 = 0 :=
  ⟨_, rfl, rfl⟩

theorem witness_nonBinary_operands : (DbLevels.mk .low .other .low .low).binary = false ∧
    (CwLevels.mk .low .low .low .low .low .low .low .other).binary = false := by decide

theorem witness_ResultsDependOnOperandAndBuildOnly :
    (∃ t t', exec (.encode (dbLevels 0x1#4)) (quiet .all7) = .next t ∧
      exec (.encode (dbLevels 0x1#4)) State.reset = .next t') ∧
    (quiet .all7).pCoverage = State.reset.pCoverage ∧ (dbLevels 0x1#4).binary = true ∧
    (cwLevels 0x79#8).binary = true :=
  ⟨⟨_, _, rfl, rfl⟩, rfl, by decide, by decide⟩

/-- OutputsSettleAfterTheDelay and DirectDriveSettlesAfterBothDelays: changed operands, and times on both sides of
each delay. -/
theorem witness_settling :
    dbLevels 0x1#4 ≠ (quiet .all7).encD ∧ cwLevels 0x79#8 ≠ (quiet .all7).decR ∧
    0 < Config.tPdEnc ∧ Config.tPdEnc - 1 < Config.tPdEnc ∧ Config.tPdEnc ≤ Config.tPdEnc ∧
    0 < Config.tPdDec ∧ Config.tPdDec - 1 < Config.tPdDec ∧ Config.tPdDec ≤ Config.tPdDec ∧
    Config.tPdEnc + Config.tPdDec - 1 < Config.tPdEnc + Config.tPdDec := by
  have h1 : 0 < Config.tPdEnc := Nat.succ_pos _
  have h2 : 0 < Config.tPdDec := Nat.succ_pos _
  exact ⟨by decide, by decide, h1, by omega, le_rfl, h2, by omega, le_rfl, by omega⟩

theorem witness_StepRunsTheDecodedCall :
    ∃ s t, s.pending = [.call (some .c) .enc (.lit ['1', '0', '1', '0'])] ∧
      argText (.lit ['1', '0', '1', '0']) s = some ['1', '0', '1', '0'] ∧
      decode .enc ['1', '0', '1', '0'] = .ok (.encode (dbLevels 0xA#4)) ∧
      exec (.encode (dbLevels 0xA#4)) { s with pending := [] } = .next t :=
  ⟨busy [.call (some .c) .enc (.lit ['1', '0', '1', '0'])], _, rfl, rfl, rfl, rfl⟩

theorem witness_pending_actions :
    (busy [.call (some .c) .enc (.lit ['0', '0', '0', '2'])]).pending =
      [.call (some .c) .enc (.lit ['0', '0', '0', '2'])] ∧
    (busy [.call (some .q) .dec (.lit (cwText (cwLevels 0x79#8)))]).pending =
      [.call (some .q) .dec (.lit (cwText (cwLevels 0x79#8)))] ∧
    (busy [.flip .r (.lit (cwText (cwLevels 0x71#8))) [0, 7]]).pending =
      [.flip .r (.lit (cwText (cwLevels 0x71#8))) [0, 7]] ∧
    (busy [.sample .q .dec]).pending = [.sample .q .dec] := ⟨rfl, rfl, rfl, rfl⟩

/-- MediumInvertsThePositions and SampleReadsThePortNow: a host-driven and a joined `dec_r`, and another variable. -/
theorem witness_both_drivers_of_dec_r :
    (busy [.sample .q .dec]).link = none ∧
    (∃ s : State, s.pending = [.sample .q .dec] ∧ s.link = some [3]) ∧
    (∃ s : State, s.pending = [.flip .r (.lit (cwText (cwLevels 0x71#8))) [0, 7]] ∧ s.link = some [3]) ∧
    HostVar.c ≠ HostVar.q ∧ HostVar.c ≠ HostVar.r :=
  ⟨rfl, ⟨{ busy [.sample .q .dec] with link := some [3] }, rfl, rfl⟩,
    ⟨{ busy [.flip .r (.lit (cwText (cwLevels 0x71#8))) [0, 7]] with link := some [3] }, rfl, rfl⟩,
    by decide, by decide⟩

/-- StepsStopOnlyAtTheHostBoundary: each of the three refusals occurs. -/
theorem witness_StepsStopOnlyAtTheHostBoundary :
    step (busy [.call none .enc (.lit [])]) = .refused (.invalidInputShape []) ∧
    step (busy [.assign .d (.var .r)]) = .refused (.unsetVariable .r) ∧
    step (busy [.flip .r (.lit ['1']) [0]]) = .refused (.notACodeword ['1']) := ⟨rfl, rfl, rfl⟩

theorem witness_HostDutiesMakeTheStepSafe :
    HostDutiesMet (quiet .all7) ∧ HostDutiesMet (busy [.flip .r (.lit (cwText (cwLevels 0x71#8))) [0]]) ∧
    HostDutiesMet (busy [.call none .enc (.lit [])]) :=
  ⟨trivial, ⟨_, rfl, rfl⟩, by intro h; cases h⟩

end Sys2Proof.Tests
end

section
/-!
PROOFS. Each operation's one result on a binary operand, and O33: nothing but the operand and the build enters it.
-/

namespace Sys2Proof.Machine

/-! ### Binary operands are the levels of a word -/

theorem level_binary_iff {l : Level} : l.binary = true ↔ ∃ b, l = bitLevel b := by
  cases l with
  | low => exact iff_of_true rfl ⟨false, rfl⟩
  | high => exact iff_of_true rfl ⟨true, rfl⟩
  | other => simp [Level.binary, bitLevel]

@[simp] theorem bitLevel_binary (b : Bool) : (bitLevel b).binary = true := level_binary_iff.2 ⟨b, rfl⟩

/-- A 4-bit port is binary exactly when it carries a data block (R66). -/
theorem dbLevels_binary_iff {l : DbLevels} : l.binary = true ↔ ∃ d, l = dbLevels d := by
  constructor
  · intro h
    obtain ⟨d1, d2, d3, d4⟩ := l
    simp only [DbLevels.binary, Bool.and_eq_true, level_binary_iff] at h
    obtain ⟨⟨⟨⟨a, rfl⟩, b, rfl⟩, c, rfl⟩, e, rfl⟩ := h
    exact ⟨packDb a b c e, (dbLevels_packDb a b c e).symm⟩
  · rintro ⟨d, rfl⟩
    simp [DbLevels.binary, dbLevels]

/-- An 8-bit port is binary exactly when it carries a codeword-format word (R66). -/
theorem cwLevels_binary_iff {l : CwLevels} : l.binary = true ↔ ∃ r, l = cwLevels r := by
  constructor
  · intro h
    obtain ⟨p, h1, h2, h3, d1, d2, d3, d4⟩ := l
    simp only [CwLevels.binary, Bool.and_eq_true, level_binary_iff] at h
    obtain ⟨⟨⟨⟨⟨⟨⟨⟨p, rfl⟩, h1, rfl⟩, h2, rfl⟩, h3, rfl⟩, a, rfl⟩, b, rfl⟩, c, rfl⟩, e, rfl⟩ := h
    exact ⟨packCw p h1 h2 h3 a b c e, (cwLevels_packCw p h1 h2 h3 a b c e).symm⟩
  · rintro ⟨r, rfl⟩
    simp [CwLevels.binary, cwLevels]

/-! ### What each operation answers -/

theorem exec_encode (l : DbLevels) (s : State) :
    exec (.encode l) s = .next (refresh (settleEnc (driveEnc l s))) := rfl

theorem exec_decode (l : CwLevels) (s : State) :
    exec (.decode l) s = .next (refresh (settleDec (driveDec l s))) := rfl

/-- ENCODE of a data block completes from every state, with its codeword for the state's build (R80, R133). -/
theorem encodesTo_encodeWord (s : State) (d : DataBlock) :
    EncodesTo s (dbLevels d) (cwLevels (encodeWord s.pCoverage d)) :=
  ⟨_, exec_encode _ s, rfl, rfl, encOutput_settled rfl rfl⟩

/-- DECODE of a received word completes from every state, with its data block for the state's build (R100, R133).
The host drives `dec_r`, so the link and ENC have no part in it. -/
theorem decodesTo_decodeWord (s : State) (r : Codeword) :
    DecodesTo s (cwLevels r) (dbLevels (decodeWord s.pCoverage r)) :=
  ⟨_, exec_decode _ s, rfl, rfl, rfl, decOutput_settled (decInputSteady_host rfl) rfl rfl⟩

/-- ENCODE has one next state, so its output is the one it completes with. -/
theorem EncodesTo.encC_eq {s t : State} {l : DbLevels} {c : CwLevels} (h : EncodesTo s l c)
    (ht : exec (.encode l) s = .next t) : t.encC = c := by
  obtain ⟨t', ht', -, -, hc⟩ := h
  cases ht.symm.trans ht'
  exact hc

/-- DECODE has one next state, so its output is the one it completes with. -/
theorem DecodesTo.decQ_eq {s t : State} {l : CwLevels} {q : DbLevels} (h : DecodesTo s l q)
    (ht : exec (.decode l) s = .next t) : t.decQ = q := by
  obtain ⟨t', ht', -, -, -, hq⟩ := h
  cases ht.symm.trans ht'
  exact hq

/-- Settles O33: a binary operand is the levels of a word, and either output is then its unit's function of that word
and of `pCoverage`, which the two states share. -/
theorem resultsDependOnOperandAndBuildOnly : Obligations.ResultsDependOnOperandAndBuildOnly := by
  constructor
  · intro s s' t t' l hl hcov ht ht'
    obtain ⟨d, rfl⟩ := dbLevels_binary_iff.1 hl
    rw [(encodesTo_encodeWord s d).encC_eq ht, (encodesTo_encodeWord s' d).encC_eq ht', hcov]
  · intro s s' t t' l hl hcov ht ht'
    obtain ⟨r, rfl⟩ := cwLevels_binary_iff.1 hl
    rw [(decodesTo_decodeWord s r).decQ_eq ht, (decodesTo_decodeWord s' r).decQ_eq ht', hcov]

end Sys2Proof.Machine
end

section
/-!
PROOFS. The ENC unit's function bit by bit (R80 to R86), and from it O12, O13 and O14.
-/

namespace Sys2Proof.Machine

/-! ### The codeword, field by field -/

/-- The rule of R80 on the four bits of a data block. -/
theorem encodeWord_packDb (cov : PCoverage) (d1 d2 d3 d4 : Bool) :
    encodeWord cov (packDb d1 d2 d3 d4) =
      packCw
        (overallParity cov (hamming1 d1 d2 d4) (hamming2 d1 d3 d4) (hamming3 d2 d3 d4) d1 d2 d3 d4)
        (hamming1 d1 d2 d4) (hamming2 d1 d3 d4) (hamming3 d2 d3 d4) d1 d2 d3 d4 := by
  simp [encodeWord]

section
variable (cov : PCoverage) (d : DataBlock)

/-- H1 of a codeword (R81). -/
@[simp] theorem cwAt_encodeWord_1 :
    cwAt (encodeWord cov d) 1 = hamming1 (dbAt d 0) (dbAt d 1) (dbAt d 3) := by simp [encodeWord]

/-- H2 of a codeword (R82). -/
@[simp] theorem cwAt_encodeWord_2 :
    cwAt (encodeWord cov d) 2 = hamming2 (dbAt d 0) (dbAt d 2) (dbAt d 3) := by simp [encodeWord]

/-- H3 of a codeword (R83). -/
@[simp] theorem cwAt_encodeWord_3 :
    cwAt (encodeWord cov d) 3 = hamming3 (dbAt d 1) (dbAt d 2) (dbAt d 3) := by simp [encodeWord]

@[simp] theorem cwAt_encodeWord_4 : cwAt (encodeWord cov d) 4 = dbAt d 0 := by simp [encodeWord]
@[simp] theorem cwAt_encodeWord_5 : cwAt (encodeWord cov d) 5 = dbAt d 1 := by simp [encodeWord]
@[simp] theorem cwAt_encodeWord_6 : cwAt (encodeWord cov d) 6 = dbAt d 2 := by simp [encodeWord]
@[simp] theorem cwAt_encodeWord_7 : cwAt (encodeWord cov d) 7 = dbAt d 3 := by simp [encodeWord]

/-- P of a codeword is the overall parity of its other fields (R84). -/
theorem cwAt_encodeWord_0 :
    cwAt (encodeWord cov d) 0 =
      overallParity cov (cwAt (encodeWord cov d) 1) (cwAt (encodeWord cov d) 2) (cwAt (encodeWord cov d) 3)
        (dbAt d 0) (dbAt d 1) (dbAt d 2) (dbAt d 3) := by
  simp [encodeWord]

/-- A codeword is its four parity bits in front of the data bits (R62, R86). -/
theorem encodeWord_eq_packCw_data :
    encodeWord cov d =
      packCw (cwAt (encodeWord cov d) 0) (cwAt (encodeWord cov d) 1) (cwAt (encodeWord cov d) 2)
        (cwAt (encodeWord cov d) 3) (dbAt d 0) (dbAt d 1) (dbAt d 2) (dbAt d 3) := by
  have fields := packCw_fields (encodeWord cov d)
  rw [cwAt_encodeWord_4, cwAt_encodeWord_5, cwAt_encodeWord_6, cwAt_encodeWord_7] at fields
  exact fields.symm

end

/-- The four low bits of a codeword-format word are its data fields (R62). -/
theorem extractLsb'_eq_packDb (c : Codeword) :
    c.extractLsb' 0 4 = packDb (cwAt c 4) (cwAt c 5) (cwAt c 6) (cwAt c 7) := by
  revert c; decide

/-- ENC leaves the data bits as they are (R86). -/
theorem encodeWord_data (cov : PCoverage) (d : DataBlock) : (encodeWord cov d).extractLsb' 0 4 = d := by
  simp [extractLsb'_eq_packDb, packDb_fields]

/-! ### The two builds -/

/-- Inverting P is inverting bus bit 7 (R62). -/
theorem packCw_not_p (p h1 h2 h3 a b c d : Bool) :
    packCw (!p) h1 h2 h3 a b c d = packCw p h1 h2 h3 a b c d ^^^ 0x80#8 := by
  revert p h1 h2 h3 a b c d; decide

/-- The XOR of the three Hamming bits is D4: each other data bit is in two of them (R85). -/
theorem hamming_xor (d1 d2 d3 d4 : Bool) :
    ((hamming1 d1 d2 d4 ^^ hamming2 d1 d3 d4) ^^ hamming3 d2 d3 d4) = d4 := by
  revert d1 d2 d3 d4; decide

/-- ALL7 covers the Hamming bits and what DATA4 covers (R84). -/
theorem overallParity_all7 (h1 h2 h3 d1 d2 d3 d4 : Bool) :
    overallParity .all7 h1 h2 h3 d1 d2 d3 d4 = (((h1 ^^ h2) ^^ h3) ^^ overallParity .data4 h1 h2 h3 d1 d2 d3 d4) := by
  simp only [overallParity, Bool.xor_assoc]

/-- The two coverages differ by the XOR of the Hamming bits, which is D4 (R85). -/
theorem overallParity_of_ne {cov cov' : PCoverage} (h : cov ≠ cov') (d1 d2 d3 d4 : Bool) :
    overallParity cov' (hamming1 d1 d2 d4) (hamming2 d1 d3 d4) (hamming3 d2 d3 d4) d1 d2 d3 d4 =
      (overallParity cov (hamming1 d1 d2 d4) (hamming2 d1 d3 d4) (hamming3 d2 d3 d4) d1 d2 d3 d4 ^^ d4) := by
  match cov, cov', h with
  | .all7, .all7, h => exact absurd rfl h
  | .all7, .data4, _ =>
    rw [overallParity_all7, hamming_xor, Bool.xor_comm d4, Bool.xor_assoc, Bool.xor_self, Bool.xor_false]
  | .data4, .all7, _ => rw [overallParity_all7, hamming_xor, Bool.xor_comm]
  | .data4, .data4, h => exact absurd rfl h

/-- The codewords of one data block in the two builds: equal where D4 is 0, and apart in P alone where it is 1. -/
theorem encodeWord_of_ne {cov cov' : PCoverage} (h : cov ≠ cov') (d : DataBlock) :
    encodeWord cov' d = if dbAt d 3 then encodeWord cov d ^^^ 0x80#8 else encodeWord cov d := by
  simp only [encodeWord, overallParity_of_ne h]
  cases dbAt d 3 with
  | false => simp
  | true => simp [packCw_not_p]

/-! ### The operation -/

/-- ENCODE of a data block completes with its codeword and with no other. -/
theorem encodesTo_iff {s : State} {d : DataBlock} {c : Codeword} :
    EncodesTo s (dbLevels d) (cwLevels c) ↔ c = encodeWord s.pCoverage d := by
  constructor
  · rintro ⟨t, ht, -, -, hc⟩
    exact cwLevels_injective (hc.symm.trans ((encodesTo_encodeWord s d).encC_eq ht))
  · rintro rfl
    exact encodesTo_encodeWord s d

/-- R80 on the levels of the two ports. -/
theorem encodesTo_bitLevels (s : State) (d1 d2 d3 d4 : Bool) :
    EncodesTo s ⟨bitLevel d1, bitLevel d2, bitLevel d3, bitLevel d4⟩
      ⟨bitLevel (overallParity s.pCoverage (hamming1 d1 d2 d4) (hamming2 d1 d3 d4) (hamming3 d2 d3 d4) d1 d2 d3 d4),
        bitLevel (hamming1 d1 d2 d4), bitLevel (hamming2 d1 d3 d4), bitLevel (hamming3 d2 d3 d4),
        bitLevel d1, bitLevel d2, bitLevel d3, bitLevel d4⟩ := by
  have completes := encodesTo_encodeWord s (packDb d1 d2 d3 d4)
  rwa [dbLevels_packDb, encodeWord_packDb, cwLevels_packCw] at completes

/-- Settles O12: the codeword is the rule's on the operand's bits; the corner cases are its values, and the two builds'
codewords differ by D4 in P. -/
theorem encodeFollowsItsRule : Obligations.EncodeFollowsItsRule := by
  refine ⟨fun s d1 d2 d3 d4 => ?_, fun s => ?_, fun s s' d c c' hcov hc hc' => ?_⟩
  · have completes := encodesTo_bitLevels s d1 d2 d3 d4
    cases hs : s.pCoverage <;> rw [hs] at completes <;> exact completes
  · simp only [encodesTo_iff]
    refine ⟨?_, fun hs => ?_, fun hs => ?_, ?_⟩
    · cases s.pCoverage <;> decide
    · rw [hs]; decide
    · rw [hs]; decide
    · cases s.pCoverage <;> decide
  · rw [encodesTo_iff.1 hc, encodesTo_iff.1 hc', encodeWord_of_ne hcov]
    exact ⟨fun hd4 => (if_neg (Bool.eq_false_iff.1 hd4)).symm, fun hd4 => if_pos hd4⟩

/-- Settles O13: bus bits 6, 5 and 4 are positions 1, 2 and 3, and the data fields are the operand's. -/
theorem hammingBitsAndDataOfTheCodeword : Obligations.HammingBitsAndDataOfTheCodeword := fun s d =>
  ⟨encodeWord s.pCoverage d, encodesTo_encodeWord s d, cwAt_encodeWord_1 _ d, cwAt_encodeWord_2 _ d,
    cwAt_encodeWord_3 _ d, encodeWord_data _ d, encodeWord_eq_packCw_data _ d⟩

/-- Settles O14: bus bit 7 is position 0, the overall parity of the build. -/
theorem overallParityCoversTheSelectedBits : Obligations.OverallParityCoversTheSelectedBits := by
  refine ⟨rfl, fun s d => ⟨encodeWord s.pCoverage d, encodesTo_encodeWord s d, fun hs => ?_, fun hs => ?_⟩⟩
  · rw [hs]; exact cwAt_encodeWord_0 .all7 d
  · rw [hs]; exact cwAt_encodeWord_0 .data4 d

end Sys2Proof.Machine
end

section
/-!
PROOFS. The DEC unit's function step by step (R101 to R105), and from it O18 to O21.
-/

namespace Sys2Proof.Machine

/-! ### Step 1: the overall parity check -/

/-- `par_ok` compares the received P with the parity recomputed from the other received fields (R102). -/
theorem parOk_iff {cov : PCoverage} {r : Codeword} :
    parOk cov r = true ↔
      cwAt r 0 = overallParity cov (cwAt r 1) (cwAt r 2) (cwAt r 3) (cwAt r 4) (cwAt r 5) (cwAt r 6) (cwAt r 7) :=
  beq_iff_eq

/-- The XOR of all eight bits is P against the parity of the other seven (R89, R102). -/
theorem weightParity_eq_p_xor_all7 (r : Codeword) :
    weightParity r = (cwAt r 0 ^^
      overallParity .all7 (cwAt r 1) (cwAt r 2) (cwAt r 3) (cwAt r 4) (cwAt r 5) (cwAt r 6) (cwAt r 7)) := by
  simp [weightParity, overallParity, List.range_succ]

/-- Under ALL7, Step 1 passes exactly the words of even weight (R102). -/
theorem parOk_all7_iff_even {r : Codeword} : parOk .all7 r = true ↔ weightParity r = false := by
  rw [parOk_iff, weightParity_eq_p_xor_all7]
  exact bne_eq_false_iff_eq.symm

/-- A codeword passes Step 1 of its own build: the decoder's check is the rule that made P (R84, R113). -/
theorem parOk_encodeWord (cov : PCoverage) (d : DataBlock) : parOk cov (encodeWord cov d) = true := by
  rw [parOk_iff, cwAt_encodeWord_0]
  simp

/-! ### Step 3: the correction as a mask on the data -/

/-- The data bit that Step 3 inverts for a syndrome, as a mask on the data block; 0 for row 5 (R105). Tied to the
model's chain by `correct_eq_xor_mask`. -/
def correctionMask : Bool → Bool → Bool → DataBlock
  | true, true, true => 0x1#4
  | true, true, false => 0x8#4
  | true, false, true => 0x4#4
  | false, true, true => 0x2#4
  | _, _, _ => 0x0#4

/-- Row 5 of R105: nothing is inverted exactly where at most one Hamming bit mismatches. -/
theorem correctionMask_eq_zero_iff {s1 s2 s3 : Bool} :
    correctionMask s1 s2 s3 = 0x0#4 ↔ [s1, s2, s3].countP id ≤ 1 := by
  revert s1 s2 s3; decide

/-- The chain of R105 inverts the bits of the mask, and `par_ok` only gates it (R102, R105). -/
theorem correct_eq_xor_mask (ok s1 s2 s3 d1 d2 d3 d4 : Bool) :
    correct ok s1 s2 s3 d1 d2 d3 d4 =
      packDb d1 d2 d3 d4 ^^^ if ok then 0x0#4 else correctionMask s1 s2 s3 := by
  revert ok s1 s2 s3 d1 d2 d3 d4; decide

/-- The chain of R105 on the levels of `dec_q`, row by row. -/
theorem dbLevels_correct (ok s1 s2 s3 d1 d2 d3 d4 : Bool) :
    dbLevels (correct ok s1 s2 s3 d1 d2 d3 d4) =
      if ok = true then ⟨bitLevel d1, bitLevel d2, bitLevel d3, bitLevel d4⟩
      else if s1 = true ∧ s2 = true ∧ s3 = true then ⟨bitLevel d1, bitLevel d2, bitLevel d3, bitLevel (!d4)⟩
      else if s1 = true ∧ s2 = true then ⟨bitLevel (!d1), bitLevel d2, bitLevel d3, bitLevel d4⟩
      else if s1 = true ∧ s3 = true then ⟨bitLevel d1, bitLevel (!d2), bitLevel d3, bitLevel d4⟩
      else if s2 = true ∧ s3 = true then ⟨bitLevel d1, bitLevel d2, bitLevel (!d3), bitLevel d4⟩
      else ⟨bitLevel d1, bitLevel d2, bitLevel d3, bitLevel d4⟩ := by
  simp only [correct, apply_ite dbLevels, dbLevels_packDb, Bool.and_eq_true, and_assoc]

/-! ### The decoded word -/

section
variable {cov : PCoverage} {r : Codeword}

/-- The DEC unit's result is the received data bits with the bits of the mask inverted, where Step 1 fails. -/
theorem decodeWord_eq_data_xor_mask (cov : PCoverage) (r : Codeword) :
    decodeWord cov r = r.extractLsb' 0 4 ^^^
      if parOk cov r then 0x0#4 else correctionMask (syndrome1 r) (syndrome2 r) (syndrome3 r) := by
  rw [extractLsb'_eq_packDb]
  exact correct_eq_xor_mask ..

/-- With `par_ok` the received data bits are the result (R102). -/
theorem decodeWord_of_parOk (h : parOk cov r = true) : decodeWord cov r = r.extractLsb' 0 4 := by
  simp [decodeWord_eq_data_xor_mask, h]

/-- Without `par_ok` the syndrome alone selects the mask (R105). -/
theorem decodeWord_of_parity_mismatch (h : parOk cov r = false) :
    decodeWord cov r = r.extractLsb' 0 4 ^^^ correctionMask (syndrome1 r) (syndrome2 r) (syndrome3 r) := by
  simp [decodeWord_eq_data_xor_mask, h]

/-- With at most one mismatch the received data bits are the result, whatever Step 1 says (R105, R108). -/
theorem decodeWord_of_atMostOneMismatch (h : [syndrome1 r, syndrome2 r, syndrome3 r].countP id ≤ 1) :
    decodeWord cov r = r.extractLsb' 0 4 := by
  rw [decodeWord_eq_data_xor_mask, correctionMask_eq_zero_iff.2 h, ite_self, BitVec.xor_zero]

/-- A clean word decodes to the data that produced it (R113). -/
theorem decodeWord_encodeWord (cov : PCoverage) (d : DataBlock) : decodeWord cov (encodeWord cov d) = d := by
  rw [decodeWord_of_parOk (parOk_encodeWord cov d), encodeWord_data]

end

/-! ### The operation -/

/-- DECODE of a received word completes with its data block and with no other. -/
theorem decodesTo_iff {s : State} {r : Codeword} {q : DataBlock} :
    DecodesTo s (cwLevels r) (dbLevels q) ↔ decodeWord s.pCoverage r = q := by
  constructor
  · rintro ⟨t, ht, -, -, -, hq⟩
    exact dbLevels_injective (((decodesTo_decodeWord s r).decQ_eq ht).symm.trans hq)
  · rintro rfl
    exact decodesTo_decodeWord s r

/-- R100 on the levels of the two ports, with the three steps on the received bits. -/
theorem decodesTo_bitLevels (s : State) (p h1 h2 h3 d1 d2 d3 d4 : Bool) :
    DecodesTo s
      ⟨bitLevel p, bitLevel h1, bitLevel h2, bitLevel h3, bitLevel d1, bitLevel d2, bitLevel d3, bitLevel d4⟩
      (dbLevels (correct (p == overallParity s.pCoverage h1 h2 h3 d1 d2 d3 d4)
        (h1 ^^ hamming1 d1 d2 d4) (h2 ^^ hamming2 d1 d3 d4) (h3 ^^ hamming3 d2 d3 d4) d1 d2 d3 d4)) := by
  have completes := decodesTo_decodeWord s (packCw p h1 h2 h3 d1 d2 d3 d4)
  rw [cwLevels_packCw] at completes
  simpa [decodeWord, parOk, syndrome1, syndrome2, syndrome3] using completes

/-- Settles O18: the result is the rule's chain on the operand's bits; the corner cases are a clean word, row 5 and
even weight, and the worked example 0xDA is of row 5. -/
theorem decodeFollowsItsRule : Obligations.DecodeFollowsItsRule := by
  refine ⟨fun s p h1 h2 h3 d1 d2 d3 d4 => ?_, fun s d => ?_, fun s r _ hsyn => ?_, fun s r hs heven => ?_,
    fun s => ?_⟩
  · have completes := decodesTo_bitLevels s p h1 h2 h3 d1 d2 d3 d4
    simp only [dbLevels_correct, beq_iff_eq] at completes
    cases hs : s.pCoverage <;> rw [hs] at completes <;> exact completes
  · exact decodesTo_iff.2 (decodeWord_encodeWord _ d)
  · exact decodesTo_iff.2 (decodeWord_of_atMostOneMismatch hsyn)
  · rw [decodesTo_iff, hs]
    exact decodeWord_of_parOk (parOk_all7_iff_even.2 heven)
  · exact decodesTo_iff.2 (decodeWord_of_atMostOneMismatch (by decide))

/-- Settles O20: bus bit 7 is P, which Step 1 compares with the parity of the build. -/
theorem parityMatchPassesTheDataThrough : Obligations.ParityMatchPassesTheDataThrough :=
  ⟨fun _ => ⟨parOk_iff, parOk_all7_iff_even, parOk_iff⟩, fun _ _ hok => decodesTo_iff.2 (decodeWord_of_parOk hok)⟩

/-- Settles O21: each row is its syndrome's mask on the received data bits. -/
theorem correctionBySyndrome : Obligations.CorrectionBySyndrome := by
  intro s r hok
  simp only [decodesTo_iff]
  refine ⟨fun h1 h2 h3 => ?_, fun h1 h2 h3 => ?_, fun h1 h2 h3 => ?_, fun h1 h2 h3 => ?_,
    decodeWord_of_atMostOneMismatch⟩ <;>
    rw [decodeWord_of_parity_mismatch hok, h1, h2, h3] <;> rfl

/-- Settles O19: position `i` is bus bit `7 - i`, so each field and each syndrome bit is its bus form by definition. -/
theorem syndromeOfTheReceivedWord : Obligations.SyndromeOfTheReceivedWord := fun _ =>
  ⟨⟨rfl, rfl, rfl, rfl, rfl, rfl, rfl, rfl⟩, rfl, rfl, rfl⟩

end Sys2Proof.Machine
end

section
/-!
PROOFS. The shape check at the host boundary and the call behind it (R130 to R132): O7 and O40.

A text passes the check exactly as the text of a word, so a call is either refused or is the operation on that word.
-/

namespace Sys2Proof.Machine

/-! ### The symbols of bits -/

@[simp] theorem symbolLevel_levelSymbol_bitLevel (b : Bool) : symbolLevel (levelSymbol (bitLevel b)) = bitLevel b := by
  cases b <;> rfl

@[simp] theorem symbolBinary_levelSymbol_bitLevel (b : Bool) : symbolBinary (levelSymbol (bitLevel b)) = true := by
  cases b <;> rfl

/-- The symbols that the check accepts (R131). -/
theorem symbolBinary_iff {c : Char} : symbolBinary c = true ↔ c = '0' ∨ c = '1' := by
  simp [symbolBinary]

/-- A binary symbol is the symbol of a bit (R63). -/
theorem exists_bit_of_symbolBinary {c : Char} (h : symbolBinary c = true) : ∃ b, levelSymbol (bitLevel b) = c := by
  obtain rfl | rfl := symbolBinary_iff.1 h
  · exact ⟨false, rfl⟩
  · exact ⟨true, rfl⟩

/-- A text that passes the check is the symbols of as many bits as the check asks for (R63, R131). -/
theorem exists_bits_of_shapeOk {n : Nat} {t : Text} (h : shapeOk n t = true) :
    ∃ bs : List Bool, bs.length = n ∧ bs.map (levelSymbol ∘ bitLevel) = t := by
  simp only [shapeOk, Bool.and_eq_true, beq_iff_eq, List.all_eq_true] at h
  obtain ⟨hlen, hsym⟩ := h
  have hbits : t ∈ Set.range (List.map (levelSymbol ∘ bitLevel)) := by
    rw [Set.range_list_map]
    exact fun c hc => exists_bit_of_symbolBinary (hsym c hc)
  obtain ⟨bs, rfl⟩ := hbits
  exact ⟨bs, by simpa using hlen, rfl⟩

/-! ### The texts of words -/

/-- The text of a data block is its ENCODE operation (R63, R65). -/
theorem decode_dbText (d : DataBlock) : decode .enc (dbText (dbLevels d)) = .ok (.encode (dbLevels d)) := by
  simp [decode, shapeOk, dbText, dbLevels, dbOfText, levelAt]

/-- The text of a codeword-format word is its DECODE operation (R63, R65). -/
theorem decode_cwText (r : Codeword) : decode .dec (cwText (cwLevels r)) = .ok (.decode (cwLevels r)) := by
  simp [decode, shapeOk, cwText, cwLevels, cwOfText, levelAt]

/-- A text that passes the check for encode is the text of a data block (R63, R131). -/
theorem exists_dbText_of_shapeOk {t : Text} (h : shapeOk 4 t = true) : ∃ d, t = dbText (dbLevels d) := by
  obtain ⟨bs, hlen, rfl⟩ := exists_bits_of_shapeOk h
  match bs, hlen with
  | [d1, d2, d3, d4], _ => exact ⟨packDb d1 d2 d3 d4, congrArg dbText (dbLevels_packDb d1 d2 d3 d4).symm⟩

/-- A text that passes the check for decode is the text of a codeword-format word (R63, R131). -/
theorem exists_cwText_of_shapeOk {t : Text} (h : shapeOk 8 t = true) : ∃ r, t = cwText (cwLevels r) := by
  obtain ⟨bs, hlen, rfl⟩ := exists_bits_of_shapeOk h
  match bs, hlen with
  | [p, h1, h2, h3, d1, d2, d3, d4], _ =>
    exact ⟨packCw p h1 h2 h3 d1 d2 d3 d4, congrArg cwText (cwLevels_packCw p h1 h2 h3 d1 d2 d3 d4).symm⟩

/-! ### The check -/

/-- `BadShape` is the failing side of the machine's check (R131). -/
theorem not_badShape_iff {u : UnitId} {t : Text} : ¬ BadShape u t ↔ shapeOk u.operandWidth t = true := by
  simp [BadShape, shapeOk, symbolBinary_iff, or_iff_not_imp_left]

/-- A text of the wrong shape is rejected, and the rejection names it (R130, R132). -/
theorem decode_of_badShape {u : UnitId} {t : Text} (h : BadShape u t) :
    decode u t = .error (.invalidInputShape t) := by
  have hshape : ¬ shapeOk u.operandWidth t = true := fun hok => not_badShape_iff.2 hok h
  cases u with
  | enc => exact if_neg hshape
  | dec => exact if_neg hshape

/-- Any other text is an operation of its unit (R65, R130). -/
theorem exists_decode_of_not_badShape {u : UnitId} {t : Text} (h : ¬ BadShape u t) :
    ∃ i, decode u t = .ok i ∧ i.unit = u := by
  have hshape := not_badShape_iff.1 h
  cases u with
  | enc =>
    obtain ⟨d, rfl⟩ := exists_dbText_of_shapeOk hshape
    exact ⟨_, decode_dbText d, rfl⟩
  | dec =>
    obtain ⟨r, rfl⟩ := exists_cwText_of_shapeOk hshape
    exact ⟨_, decode_cwText r, rfl⟩

/-- A text is rejected exactly for its shape (R130). -/
theorem decode_eq_error_iff {u : UnitId} {t : Text} :
    decode u t = .error (.invalidInputShape t) ↔ BadShape u t := by
  refine ⟨fun herr => ?_, decode_of_badShape⟩
  by_contra hgood
  obtain ⟨i, hok, -⟩ := exists_decode_of_not_badShape hgood
  rw [hok] at herr
  cases herr

/-- Settles O7: the decoder rejects exactly the bad shapes, and the two widths are those of the ports. -/
theorem shapeCheckDecidesEveryText : Obligations.ShapeCheckDecidesEveryText := fun _ _ =>
  ⟨decode_eq_error_iff, or_iff_not_imp_left.2 exists_decode_of_not_badShape, Iff.rfl, Iff.rfl⟩

/-! ### The call -/

/-- A call with its text written out is what the step runs, with the action taken off (R70). -/
theorem step_call_lit {s : State} {dst : Option HostVar} {u : UnitId} {x : Text} {rest : List HostAction}
    (h : s.pending = .call dst u (.lit x) :: rest) : step s = runCall dst u x { s with pending := rest } := by
  simp [step, h, runAction, withArg]

/-- A call on a text of the wrong shape is refused, naming the text (R131, R132). -/
theorem runCall_of_badShape {u : UnitId} {x : Text} (dst : Option HostVar) (s : State) (h : BadShape u x) :
    runCall dst u x s = .refused (.invalidInputShape x) := by
  simp [runCall, decode_of_badShape h]

/-- A call on the text of an operation runs it and keeps the text of the unit's output port (R131). -/
theorem runCall_of_decode {s t : State} {u : UnitId} {x : Text} {i : Instr} (dst : Option HostVar)
    (hx : decode u x = .ok i) (ht : exec i s = .next t) :
    runCall dst u x s = .next (keepResult dst (outputText u t) t) := by
  simp [runCall, hx, ht]

/-- Settles O40: a call is refused for its shape, or its text is that of a word, on which the unit's operation
completes with the function of that word. -/
theorem callsAreCheckedThenRun : Obligations.CallsAreCheckedThenRun := by
  intro s v u x rest hp
  rw [step_call_lit hp]
  refine ⟨runCall_of_badShape _ _, ?_, ?_⟩
  · rintro hgood rfl
    obtain ⟨d, rfl⟩ := exists_dbText_of_shapeOk (not_badShape_iff.1 hgood)
    obtain ⟨t, ht, hencD, -, hencC⟩ := encodesTo_encodeWord { s with pending := rest } d
    exact ⟨_, d, runCall_of_decode _ (decode_dbText d) ht, rfl, by simp [hencD], by simp [outputText, hencC]⟩
  · rintro hgood rfl
    obtain ⟨r, rfl⟩ := exists_cwText_of_shapeOk (not_badShape_iff.1 hgood)
    obtain ⟨t, ht, hdecR, -, -, hdecQ⟩ := decodesTo_decodeWord { s with pending := rest } r
    exact ⟨_, r, runCall_of_decode _ (decode_cwText r) ht, rfl, by simp [hdecR], by simp [outputText, hdecQ]⟩

end Sys2Proof.Machine
end

section
/-!
PROOFS. The settling interval of each unit (R154): O36.

A change of an input port puts the unit's whole delay before its output, in whatever state the change finds the block.
A second change is therefore a first one, seen from the state it is made in.
-/

namespace Sys2Proof.Machine

/-! ### A run of host actions, action by action -/

@[simp] theorem after_nil {s t : State} : After [] s t ↔ s = t := Iff.of_eq (Host.Outcome.next.injEq s t)

/-- What the host still has to do enters no port, so a run goes on from the state after its first action. -/
@[simp] theorem after_drive {enc : Option DbLevels} {dec : Option CwLevels} {acts : List HostAction} {s t : State} :
    After (.drive enc dec :: acts) s t ↔ After acts (refresh (driveBoth enc dec s)) t := by
  cases enc <;> cases dec <;> rfl

@[simp] theorem after_elapse {n : Nat} {acts : List HostAction} {s t : State} :
    After (.elapse n :: acts) s t ↔ After acts (refresh (elapse n s)) t := Iff.rfl

/-! ### Driving one port -/

@[simp] theorem driveBoth_enc (l : DbLevels) (s : State) : driveBoth (some l) none s = driveEnc l s := rfl

@[simp] theorem driveBoth_dec (r : CwLevels) (s : State) : driveBoth none (some r) s = driveDec r s := rfl

/-! ### One change of an input, and the time since -/

/-- R154 for ENC, from the change of `enc_d` on. -/
theorem encC_settles_after_change {s : State} {d : DataBlock} (n : Nat) (hchange : dbLevels d ≠ s.encD) :
    ∃ t, After [.drive (some (dbLevels d)) none, .elapse n] s t ∧
      (n < Config.tPdEnc → t.encC = Config.freeEncC (s.draws + 1)) ∧
      (Config.tPdEnc ≤ n → t.encC = cwLevels (encodeWord s.pCoverage d)) := by
  have hwait : (elapse n (refresh (driveEnc (dbLevels d) s))).encWait = Config.tPdEnc - n := by simp [hchange]
  refine ⟨refresh (elapse n (refresh (driveEnc (dbLevels d) s))), by simp, fun hopen => ?_, fun hpast => ?_⟩
  · exact encOutput_unsettled (by omega)
  · exact encOutput_settled (by omega) rfl

/-- R154 for DEC, from the host's change of `dec_r` on. -/
theorem decQ_settles_after_change {s : State} {r : Codeword} (n : Nat) (hchange : cwLevels r ≠ s.decR) :
    ∃ t, After [.drive none (some (cwLevels r)), .elapse n] s t ∧
      (n < Config.tPdDec → t.decQ = Config.freeDecQ (s.draws + 1)) ∧
      (Config.tPdDec ≤ n → t.decQ = dbLevels (decodeWord s.pCoverage r)) := by
  have hwait : (elapse n (refresh (driveDec (cwLevels r) s))).decWait = Config.tPdDec - n := by simp [hchange]
  refine ⟨refresh (elapse n (refresh (driveDec (cwLevels r) s))), by simp, fun hopen => ?_, fun hpast => ?_⟩
  · exact decOutput_unsettled (by omega)
  · exact decOutput_settled (decInputSteady_host rfl) (by omega) rfl

/-- Settles O36: the change made after `m` units of time starts the interval from the state it finds, which holds the
first operand `l` on the port. How much of the first interval was left has no part in it. -/
theorem outputsSettleAfterTheDelay : Obligations.OutputsSettleAfterTheDelay := by
  refine ⟨fun _ _ n h => encC_settles_after_change n h, fun s l d m n _ hne => ?_,
    fun _ _ n h => decQ_settles_after_change n h, fun s l r m n _ hne => ?_⟩
  · simp only [after_drive (dec := none) (acts := .elapse m :: _), after_elapse (n := m), driveBoth_enc]
    exact encC_settles_after_change n hne
  · simp only [after_drive (enc := none) (acts := .elapse m :: _), after_elapse (n := m), driveBoth_dec]
    exact decQ_settles_after_change n hne

end Sys2Proof.Machine
end

section
/-!
PROOFS. What one step can do, said once, and what every step keeps: O1 to O4, O43 and O44.

A step moves the ports, looks at them anew, and perhaps keeps a text; or it is refused, with a reason that its action
gives. Coherence is a matter of the settling times alone: the outputs that `refresh` shows follow the inputs by
themselves.
-/

namespace Sys2Proof.Machine

/-! ### The next state of a step -/

/-- The ports, the settling times and the host's variables change from `s` only by the shared operations. Every step
ends with such changes, by `step_cases`. -/
inductive Moves (s : State) : State → Prop where
  | refl : Moves s s
  | driveEnc {b : State} (l : DbLevels) : Moves s b → Moves s (driveEnc l b)
  | driveDec {b : State} (r : CwLevels) : Moves s b → Moves s (driveDec r b)
  | connectLink {b : State} (ps : List Position) : Moves s b → Moves s (connectLink ps b)
  | elapse {b : State} (n : Nat) : Moves s b → Moves s (elapse n b)
  | setVar {b : State} (v : HostVar) (x : Text) : Moves s b → Moves s (setVar v x b)

/-- Driving the ports that are named is driving each of them. -/
theorem moves_driveBoth (enc : Option DbLevels) (dec : Option CwLevels) (s : State) : Moves s (driveBoth enc dec s) :=
  match enc, dec with
  | none, none => .refl
  | some l, none => .driveEnc l .refl
  | none, some r => .driveDec r .refl
  | some l, some r => .driveDec r (.driveEnc l .refl)

/-- Waiting until both outputs have settled lets time pass. -/
theorem moves_settleBoth (s : State) : Moves s (settleBoth s) := by
  rw [settleBoth_eq_elapse]
  exact .elapse _ .refl

/-- An operation drives its port and lets the rest of its unit's delay pass. -/
theorem exec_moves (i : Instr) (s : State) : ∃ b, Moves s b ∧ exec i s = .next (refresh b) := by
  cases i with
  | encode d =>
    refine ⟨_, ?_, exec_encode d s⟩
    rw [settleEnc_eq_elapse]
    exact .elapse _ (.driveEnc d .refl)
  | decode r =>
    refine ⟨_, ?_, exec_decode r s⟩
    rw [settleDec_eq_elapse]
    exact .elapse _ (.driveDec r .refl)

/-! ### The refusal of a step -/

/-- The argument of an action that has one (R70). -/
def HostAction.argument : HostAction → Option HostArg
  | .call _ _ arg => some arg
  | .assign _ arg => some arg
  | .flip _ arg _ => some arg
  | .drive _ _ => none
  | .connect _ => none
  | .elapse _ => none
  | .settle => none
  | .sample _ _ => none

/-- Why an action is refused. Every refused step is refused so, by `step_cases`. -/
inductive ActionRefused (s : State) : HostAction → Refusal → Prop where
  | badShape {dst : Option HostVar} {u : UnitId} {arg : HostArg} {x : Text} :
      argText arg s = some x → BadShape u x → ActionRefused s (.call dst u arg) (.invalidInputShape x)
  | unsetVariable {a : HostAction} {v : HostVar} :
      a.argument = some (.var v) → readVar v s = none → ActionRefused s a (.unsetVariable v)
  | notACodeword {dst : HostVar} {arg : HostArg} {ps : List Position} {x : Text} :
      argText arg s = some x → x.length ≠ 8 → ActionRefused s (.flip dst arg ps) (.notACodeword x)

/-- What an action can do. -/
theorem runAction_cases (a : HostAction) (s : State) :
    (∃ b dst x, Moves s b ∧ runAction a s = .next (keepResult dst x (refresh b))) ∨
    ∃ e, ActionRefused s a e ∧ runAction a s = .refused e := by
  cases a with
  | call dst u arg =>
    obtain ⟨x, hx, hrun⟩ | ⟨v, rfl, hv, hrun⟩ := withArg_cases arg s (runCall dst u · s)
    · obtain ⟨hbad, hcall⟩ | ⟨i, t, -, hexec, hcall⟩ := runCall_cases dst u x s
      · exact .inr ⟨_, .badShape hx (decode_eq_error_iff.1 hbad), hrun.trans hcall⟩
      · obtain ⟨b, hb, hnext⟩ := exec_moves i s
        cases hexec.symm.trans hnext
        exact .inl ⟨b, dst, _, hb, hrun.trans hcall⟩
    · exact .inr ⟨_, .unsetVariable rfl hv, hrun⟩
  | assign dst arg =>
    obtain ⟨x, -, hrun⟩ | ⟨v, rfl, hv, hrun⟩ := withArg_cases arg s (fun x => .next (refresh (setVar dst x s)))
    · exact .inl ⟨_, none, [], .setVar dst x .refl, hrun⟩
    · exact .inr ⟨_, .unsetVariable rfl hv, hrun⟩
  | flip dst arg ps =>
    obtain ⟨x, hx, hrun⟩ | ⟨v, rfl, hv, hrun⟩ := withArg_cases arg s (runFlip dst ps · s)
    · by_cases hlen : x.length = 8
      · exact .inl ⟨_, none, [], .setVar dst _ .refl, hrun.trans (if_pos hlen)⟩
      · exact .inr ⟨_, .notACodeword hx hlen, hrun.trans (if_neg hlen)⟩
    · exact .inr ⟨_, .unsetVariable rfl hv, hrun⟩
  | drive enc dec => exact .inl ⟨_, none, [], moves_driveBoth enc dec s, rfl⟩
  | connect ps => exact .inl ⟨_, none, [], .connectLink ps .refl, rfl⟩
  | elapse n => exact .inl ⟨_, none, [], .elapse n .refl, rfl⟩
  | settle => exact .inl ⟨_, none, [], moves_settleBoth s, rfl⟩
  | sample dst u => exact .inl ⟨_, none, [], .setVar dst _ .refl, rfl⟩

/-- A step with an action to come runs it, with the action taken off. -/
theorem step_of_pending {s : State} {a : HostAction} {rest : List HostAction} (h : s.pending = a :: rest) :
    step s = runAction a { s with pending := rest } := by
  simp [step, h]

/-- What the host still has to do is no part of a refusal. -/
theorem ActionRefused.of_pending {s : State} {a : HostAction} {rest : List HostAction} {e : Refusal}
    (h : ActionRefused { s with pending := rest } a e) : ActionRefused s a e := by
  cases h with
  | badShape hx hbad => exact .badShape hx hbad
  | unsetVariable harg hv => exact .unsetVariable harg hv
  | notACodeword hx hlen => exact .notACodeword hx hlen

/-- What a step can do. -/
theorem step_cases (s : State) :
    (∃ rest b dst x, Moves { s with pending := rest } b ∧ step s = .next (keepResult dst x (refresh b))) ∨
    ∃ a rest e, s.pending = a :: rest ∧ ActionRefused s a e ∧ step s = .refused e := by
  cases hp : s.pending with
  | nil => exact .inl ⟨s.pending, elapse 1 s, none, [], .elapse 1 .refl, by simp [step, hp, idle]⟩
  | cons a rest =>
    obtain ⟨b, dst, x, hb, hrun⟩ | ⟨e, he, hrun⟩ := runAction_cases a { s with pending := rest }
    · exact .inl ⟨rest, b, dst, x, hb, (step_of_pending hp).trans hrun⟩
    · exact .inr ⟨a, rest, e, rfl, he.of_pending, (step_of_pending hp).trans hrun⟩

/-- The next state of a step, where it has one. -/
theorem step_eq_next {s t : State} (h : step s = .next t) :
    ∃ rest b dst x, Moves { s with pending := rest } b ∧ t = keepResult dst x (refresh b) := by
  obtain ⟨rest, b, dst, x, hb, hstep⟩ | ⟨a, rest, e, -, -, hstep⟩ := step_cases s
  · exact ⟨rest, b, dst, x, hb, by simpa using h.symm.trans hstep⟩
  · cases h.symm.trans hstep

/-- The refusal of a step, where it has one. -/
theorem step_eq_refused {s : State} {e : Refusal} (h : step s = .refused e) :
    ∃ a rest, s.pending = a :: rest ∧ ActionRefused s a e := by
  obtain ⟨rest, b, dst, x, -, hstep⟩ | ⟨a, rest, e', hp, he, hstep⟩ := step_cases s
  · cases h.symm.trans hstep
  · cases h.symm.trans hstep
    exact ⟨a, rest, hp, he⟩

/-! ### The settling times -/

/-- The settling times are ones the delays allow (R154, R155): the part of coherence that no `refresh` can mend. -/
structure State.Timely (s : State) : Prop where
  encDelay : s.encWait ≤ Config.tPdEnc
  decDelay : s.link = none → s.decWait ≤ Config.tPdDec
  linkDelay : s.link ≠ none → s.decWait ≤ Config.tPdEnc + Config.tPdDec
  linkOrder : s.link ≠ none → s.encWait ≤ s.decWait

theorem State.Coherent.timely {s : State} (h : s.Coherent) : s.Timely :=
  ⟨h.encDelay, h.decDelay, h.linkDelay, h.linkOrder⟩

section
variable {s : State}

theorem State.Timely.driveEnc (h : s.Timely) (l : DbLevels) : (driveEnc l s).Timely := by
  obtain ⟨henc, hdec, hlink, horder⟩ := h
  constructor <;> simp only [driveEnc_encWait, driveEnc_decWait, driveEnc_link]
  · split <;> omega
  · intro hnone
    simpa [hnone] using hdec hnone
  · intro hsome
    rw [if_neg hsome]
    split
    · exact hlink hsome
    · exact le_rfl
  · intro hsome
    rw [if_neg hsome]
    split
    · exact horder hsome
    · exact Nat.le_add_right _ _

theorem State.Timely.driveDec (h : s.Timely) (r : CwLevels) : (driveDec r s).Timely := by
  obtain ⟨henc, hdec, -, -⟩ := h
  refine ⟨henc, fun _ => ?_, fun hsome => absurd rfl hsome, fun hsome => absurd rfl hsome⟩
  rw [driveDec_decWait]
  split
  next hsame => exact hdec hsame.1
  next => exact le_rfl

theorem State.Timely.connectLink (h : s.Timely) (ps : List Position) : (connectLink ps s).Timely where
  encDelay := h.encDelay
  decDelay := nofun
  linkDelay _ := Nat.add_le_add_right h.encDelay _
  linkOrder _ := Nat.le_add_right _ _

theorem State.Timely.elapse (h : s.Timely) (n : Nat) : (elapse n s).Timely where
  encDelay := (Nat.sub_le _ n).trans h.encDelay
  decDelay hnone := (Nat.sub_le _ n).trans (h.decDelay hnone)
  linkDelay hsome := (Nat.sub_le _ n).trans (h.linkDelay hsome)
  linkOrder hsome := Nat.sub_le_sub_right (h.linkOrder hsome) n

theorem State.Timely.withPending (h : s.Timely) (rest : List HostAction) :
    State.Timely { s with pending := rest } :=
  ⟨h.encDelay, h.decDelay, h.linkDelay, h.linkOrder⟩

theorem State.Timely.setVar (h : s.Timely) (v : HostVar) (x : Text) : (setVar v x s).Timely := by
  constructor <;> simp only [setVar_encWait, setVar_decWait, setVar_link]
  exacts [h.encDelay, h.decDelay, h.linkDelay, h.linkOrder]

/-- No move of the ports leaves the settling times that the delays allow. -/
theorem Moves.timely {b : State} (hb : Moves s b) (h : s.Timely) : b.Timely := by
  induction hb with
  | refl => exact h
  | driveEnc l _ ih => exact ih.driveEnc l
  | driveDec r _ ih => exact ih.driveDec r
  | connectLink ps _ ih => exact ih.connectLink ps
  | elapse n _ ih => exact ih.elapse n
  | setVar v x _ ih => exact ih.setVar v x

/-! ### Coherence -/

/-- The outputs that `refresh` shows follow the inputs (R20, R154), and a joined `dec_r` follows `enc_c` (R155). With
`linkOrder`, a settled DEC that ENC drives has a settled ENC before it, so its input holds still. -/
theorem State.Timely.coherent_refresh (h : s.Timely) : (refresh s).Coherent where
  encFollows hw _ hd := encOutput_settled hw hd
  linkFollows ps hps := by
    have hlink : s.link = some ps := hps
    simp [decInput, hlink]
  decFollows hw hstill r hr := by
    refine decOutput_settled ?_ hw hr
    by_cases hlink : s.link = none
    · exact decInputSteady_host hlink
    · obtain ⟨d, hd⟩ := hstill.resolve_left hlink
      exact decInputSteady_link (Nat.le_zero.1 (hw ▸ h.linkOrder hlink)) hd
  encDelay := h.encDelay
  decDelay := h.decDelay
  linkDelay := h.linkDelay
  linkOrder := h.linkOrder

/-- The host's variables are no part of coherence. -/
theorem State.Coherent.keepResult (h : s.Coherent) (dst : Option HostVar) (x : Text) :
    (keepResult dst x s).Coherent := by
  constructor <;> simp only [keepResult_pCoverage, keepResult_encD, keepResult_encC, keepResult_decR,
    keepResult_decQ, keepResult_encWait, keepResult_decWait, keepResult_link]
  exacts [h.encFollows, h.linkFollows, h.decFollows, h.encDelay, h.decDelay, h.linkDelay, h.linkOrder]

/-- No move of the ports changes the build (R6, R25). -/
theorem Moves.pCoverage_eq {b : State} (hb : Moves s b) : b.pCoverage = s.pCoverage := by
  induction hb with
  | refl => rfl
  | driveEnc _ _ ih | driveDec _ _ ih | connectLink _ _ ih | elapse _ _ ih => exact ih
  | setVar v x _ ih => rw [setVar_pCoverage, ih]

end

/-- Settles O3: a step moves the ports, which keeps the settling times in their bounds, and then shows outputs that
follow the inputs. -/
theorem everyStepKeepsCoherence : Obligations.EveryStepKeepsCoherence := by
  intro s t hs hstep
  obtain ⟨rest, b, dst, x, hb, rfl⟩ := step_eq_next hstep
  exact (hb.timely (hs.timely.withPending rest)).coherent_refresh.keepResult dst x

/-- Settles O4: the build is one of the fields that no shared operation writes. -/
theorem noStepChangesPCoverage : Obligations.NoStepChangesPCoverage := by
  intro s t hstep
  obtain ⟨rest, b, dst, x, hb, rfl⟩ := step_eq_next hstep
  rw [keepResult_pCoverage, refresh_pCoverage, hb.pCoverage_eq]

/-! ### Power-up -/

/-- Settles O2: neither output has settled and no unit drives another, so the ports have nothing to agree with. -/
theorem resetIsCoherent : Obligations.ResetIsCoherent where
  encFollows := nofun
  linkFollows := nofun
  decFollows := nofun
  encDelay := le_rfl
  decDelay _ := le_rfl
  linkDelay hjoined := absurd rfl hjoined
  linkOrder hjoined := absurd rfl hjoined

/-- Settles O1: an input port that nobody drives carries no word, so after the idle step each output is the free value
of its moment. -/
theorem powerUpLeavesTheOutputsOpen : Obligations.PowerUpLeavesTheOutputsOpen :=
  ⟨rfl, rfl, rfl, rfl, rfl, Nat.succ_pos _, Nat.succ_pos _, rfl, rfl, fun v => by cases v <;> rfl,
    idle State.reset, 1, rfl, encOutput_nonBinary rfl, decOutput_nonBinary rfl⟩

/-! ### Where a step stops -/

/-- Settles O43: each reason of `ActionRefused` is one of the three. -/
theorem stepsStopOnlyAtTheHostBoundary : Obligations.StepsStopOnlyAtTheHostBoundary := by
  intro s e hstep
  obtain ⟨a, rest, hp, he⟩ := step_eq_refused hstep
  refine ⟨a, rest, hp, ?_⟩
  cases he with
  | badShape hx hbad => exact .inl ⟨_, _, _, _, rfl, hx, hbad, rfl⟩
  | unsetVariable _ hv => exact .inr (.inl ⟨_, hv, rfl⟩)
  | notACodeword hx hlen => exact .inr (.inr ⟨_, _, _, _, rfl, hx, hlen, rfl⟩)

/-- The host's duties, read off the action that is next: its argument has a text (R70, log 8). -/
theorem HostDutiesMet.argText_ne_none {s : State} {a : HostAction} {rest : List HostAction} {arg : HostArg}
    (h : HostDutiesMet s) (hp : s.pending = a :: rest) (harg : a.argument = some arg) : argText arg s ≠ none := by
  simp only [HostDutiesMet, hp] at h
  cases a <;> cases harg
  case call => exact h
  case assign => exact h
  case flip =>
    obtain ⟨x, hx, -⟩ := h
    simp [hx]

/-- The host's duties towards the medium: what it is given is 8 symbols long (R71, log 8). -/
theorem HostDutiesMet.length_of_flip {s : State} {dst : HostVar} {arg : HostArg} {ps : List Position}
    {rest : List HostAction} {x : Text} (h : HostDutiesMet s) (hp : s.pending = .flip dst arg ps :: rest)
    (hx : argText arg s = some x) : x.length = 8 := by
  simp only [HostDutiesMet, hp] at h
  obtain ⟨y, hy, hlen⟩ := h
  cases hx.symm.trans hy
  exact hlen

/-- Settles O44: of the reasons for a refusal, the duties shut out all but a bad shape. -/
theorem hostDutiesMakeTheStepSafe : Obligations.HostDutiesMakeTheStepSafe := by
  intro s hs
  obtain ⟨rest, b, dst, x, -, hstep⟩ | ⟨a, rest, e, hp, he, hstep⟩ := step_cases s
  · exact .inl ⟨_, hstep⟩
  · cases he with
    | badShape => exact .inr ⟨_, hstep⟩
    | unsetVariable harg hv => exact absurd hv (hs.argText_ne_none hp harg)
    | notACodeword hx hlen => exact absurd (hs.length_of_flip hp hx) hlen

end Sys2Proof.Machine
end

section
/-!
PROOFS. Texts, words and operations (R63, R65, R70): O5, O6, O8 to O11.
-/

namespace Sys2Proof.Machine

/-! ### Operations and their texts -/

/-- Settles O5: a well-formed operand is the levels of a word, and the text of a word is read back. -/
theorem decodeOfEncodeIsTheOperation : Obligations.DecodeOfEncodeIsTheOperation := by
  intro i hi
  cases i with
  | encode l =>
    obtain ⟨d, rfl⟩ := dbLevels_binary_iff.1 hi
    exact decode_dbText d
  | decode l =>
    obtain ⟨r, rfl⟩ := cwLevels_binary_iff.1 hi
    exact decode_cwText r

/-- A text that decodes has the shape of its unit (R130). -/
theorem shapeOk_of_decode {u : UnitId} {t : Text} {i : Instr} (h : decode u t = .ok i) :
    shapeOk u.operandWidth t = true := by
  refine not_badShape_iff.1 fun hbad => ?_
  cases h.symm.trans (decode_of_badShape hbad)

/-- Settles O6: a text that decodes is the text of a word, and the operation is on the levels of that word. -/
theorem encodeOfDecodeIsTheText : Obligations.EncodeOfDecodeIsTheText := by
  intro u t i h
  have hshape := shapeOk_of_decode h
  cases u with
  | enc =>
    obtain ⟨d, rfl⟩ := exists_dbText_of_shapeOk hshape
    cases h.symm.trans (decode_dbText d)
    exact ⟨rfl, dbLevels_binary_iff.2 ⟨d, rfl⟩⟩
  | dec =>
    obtain ⟨r, rfl⟩ := exists_cwText_of_shapeOk hshape
    cases h.symm.trans (decode_cwText r)
    exact ⟨rfl, cwLevels_binary_iff.2 ⟨r, rfl⟩⟩

/-- Settles O8: the sample words, read by the decoder. -/
theorem sampleWordsDecode : Obligations.SampleWordsDecode :=
  ⟨rfl, rfl, rfl, rfl, rfl, rfl, rfl, rfl⟩

/-! ### The call form -/

/-- `afterLetters` takes off the letters at the front of a line, and only those. -/
theorem afterLetters_eq_some_iff {hs l r : Text} : afterLetters hs l = some r ↔ l = hs ++ r := by
  induction hs generalizing l with
  | nil => simp [afterLetters]
  | cons h hs ih =>
    cases l with
    | nil => simp [afterLetters]
    | cons c cs =>
      by_cases hc : h = c
      · simp [afterLetters, hc, ih]
      · simp [afterLetters, hc, Ne.symm hc]

/-- A line is a call on a unit exactly when it is the call form of the text between the brackets (R70). -/
theorem callOn_eq_some_iff {u : UnitId} {line t : Text} : callOn u line = some t ↔ line = printCall u t := by
  have takesOff : callOn u line = some t ↔
      ∃ rest, afterLetters (callHead u) line = some rest ∧
        afterLetters callTail.reverse rest.reverse = some t.reverse := by
    unfold callOn
    split
    next hhead => simp [hhead]
    next rest hhead =>
      simp only [hhead, Option.some.injEq, exists_eq_left']
      split
      next htail => simp [htail]
      next t' htail => simp [htail, ← List.reverse_eq_iff]
  simp only [takesOff, afterLetters_eq_some_iff, ← List.reverse_append, List.reverse_inj, printCall,
    List.append_assoc]
  exact ⟨fun ⟨_, hline, hrest⟩ => hrest ▸ hline, fun hline => ⟨_, hline, rfl⟩⟩

/-- The letters of the two operations differ, so no line is a call on both units (R70). -/
theorem printCall_enc_ne_dec (t t' : Text) : printCall .enc t ≠ printCall .dec t' := by
  simp [printCall, callHead]

/-- Settles O9: the line is read on the unit whose letters it begins with. -/
theorem callFormReadsBack : Obligations.CallFormReadsBack := by
  intro line u t
  rw [← callOn_eq_some_iff]
  cases henc : callOn .enc line with
  | some t' =>
    have hdec : callOn .dec line = none :=
      Option.eq_none_iff_forall_ne_some.2 fun t'' hdec =>
        printCall_enc_ne_dec t' t'' ((callOn_eq_some_iff.1 henc).symm.trans (callOn_eq_some_iff.1 hdec))
    cases u <;> simp [parseCall, henc, hdec]
  | none =>
    cases hdec : callOn .dec line <;> cases u <;> simp [parseCall, henc, hdec]

/-! ### A text as a numeral -/

theorem levelSymbol_bitLevel (b : Bool) : levelSymbol (bitLevel b) = if b then '1' else '0' := by
  cases b <;> rfl

@[simp] theorem levelSymbol_bitLevel_beq_one (b : Bool) : (levelSymbol (bitLevel b) == '1') = b := by
  cases b <;> rfl

/-- The table's text of a data block is its text in position order (R61, R63). -/
theorem textOfNat_toNat_db (d : DataBlock) : textOfNat 4 d.toNat = dbText (dbLevels d) := by
  simp only [dbText, dbLevels, List.map, levelSymbol_bitLevel]
  rfl

/-- The table's text of a codeword-format word is its text in position order (R62, R63). -/
theorem textOfNat_toNat_cw (r : Codeword) : textOfNat 8 r.toNat = cwText (cwLevels r) := by
  simp only [cwText, cwLevels, List.map, levelSymbol_bitLevel]
  rfl

/-- Reading the `n` low bits of `w` after the digits of `a` (R63). -/
theorem foldl_textOfNat (n w a : Nat) :
    (textOfNat n w).foldl (fun m c => 2 * m + (if c = '1' then 1 else 0)) a = a * 2 ^ n + w % 2 ^ n := by
  induction n generalizing a with
  | zero => simp [textOfNat, Nat.mod_one]
  | succ n ih =>
    rw [textOfNat, List.foldl_cons, ih, Nat.mod_pow_succ, ← Nat.toNat_testBit]
    cases w.testBit n <;> simp <;> ring

/-- A bus value written out and read as a numeral is itself (R63). -/
theorem textNumeral_textOfNat (n w : Nat) : textNumeral (textOfNat n w) = w % 2 ^ n := by
  rw [textNumeral, foldl_textOfNat, Nat.zero_mul, Nat.zero_add]

theorem textNumeral_dbText (d : DataBlock) : textNumeral (dbText (dbLevels d)) = d.toNat := by
  rw [← textOfNat_toNat_db, textNumeral_textOfNat, Nat.mod_eq_of_lt d.isLt]

theorem textNumeral_cwText (r : Codeword) : textNumeral (cwText (cwLevels r)) = r.toNat := by
  rw [← textOfNat_toNat_cw, textNumeral_textOfNat, Nat.mod_eq_of_lt r.isLt]

/-- Character `i` of a data block's text is position `i` (R61, R63). -/
theorem dbAt_eq_symbol (d : DataBlock) (i : Fin 4) : dbAt d i = ((dbText (dbLevels d))[i.val]? == some '1') := by
  fin_cases i <;> simp [dbText, dbLevels]

/-- Character `i` of a codeword-format word's text is position `i` (R62, R63). -/
theorem cwAt_eq_symbol (r : Codeword) (i : Position) : cwAt r i = ((cwText (cwLevels r))[i.val]? == some '1') := by
  fin_cases i <;> simp [cwText, cwLevels]

/-- Settles O10: a good text is the text of a word, and its numeral is that word's value. -/
theorem textReadsAsTheBusValue : Obligations.TextReadsAsTheBusValue := by
  refine ⟨fun t hgood => ?_, fun t hgood => ?_, rfl, rfl⟩
  · obtain ⟨d, rfl⟩ := exists_dbText_of_shapeOk (not_badShape_iff.1 hgood)
    rw [textNumeral_dbText, BitVec.ofNat_toNat, BitVec.setWidth_eq]
    exact ⟨decode_dbText d, d.isLt, dbAt_eq_symbol d⟩
  · obtain ⟨r, rfl⟩ := exists_cwText_of_shapeOk (not_badShape_iff.1 hgood)
    rw [textNumeral_cwText, BitVec.ofNat_toNat, BitVec.setWidth_eq]
    exact ⟨decode_cwText r, r.isLt, cwAt_eq_symbol r⟩

/-! ### Table words -/

/-- The table word of a data block is its ENCODE operation (R66, log 1). -/
theorem decodeTableWord_db (d : DataBlock) : decodeTableWord 4 d.toNat = some (.encode (dbLevels d)) := by
  rw [decodeTableWord, if_pos d.isLt, textOfNat_toNat_db, show unitOfWidth 4 = .enc from rfl, decode_dbText]

/-- The table word of a codeword-format word is its DECODE operation (R66, log 1). -/
theorem decodeTableWord_cw (r : Codeword) : decodeTableWord 8 r.toNat = some (.decode (cwLevels r)) := by
  rw [decodeTableWord, if_pos r.isLt, textOfNat_toNat_cw, show unitOfWidth 8 = .dec from rfl, decode_cwText]

/-- Settles O11: every value of either port is a table word, and both operations complete from every state. -/
theorem everyPortValueIsLegal : Obligations.EveryPortValueIsLegal :=
  ⟨fun s d => ⟨decodeTableWord_db d, _, exec_encode _ s⟩, fun s r => ⟨decodeTableWord_cw r, _, exec_decode _ s⟩⟩

end Sys2Proof.Machine
end

section
/-!
PROOFS. The code is linear, so what DEC answers depends on the data sent and on the error alone: O15, O16, O22, O23,
O25, O27 to O30.

The received word is a codeword XOR an error. Step 1 and the syndrome see the error only (R107, R113), so the result is
the data sent XOR the result on the error. What the medium does to all 16 codewords is then a question about one error.
-/

namespace Sys2Proof.Machine

/-! ### Parities of an XOR -/

/-- For `ac_rfl`, which takes it from the context of a proof. -/
theorem xor_commutative : Std.Commutative xor := ⟨Bool.xor_comm⟩

theorem hamming1_xor (a b c a' b' c' : Bool) :
    hamming1 (a ^^ a') (b ^^ b') (c ^^ c') = (hamming1 a b c ^^ hamming1 a' b' c') := by
  have := xor_commutative
  unfold hamming1
  ac_rfl

theorem hamming2_xor (a b c a' b' c' : Bool) :
    hamming2 (a ^^ a') (b ^^ b') (c ^^ c') = (hamming2 a b c ^^ hamming2 a' b' c') := hamming1_xor ..

theorem hamming3_xor (a b c a' b' c' : Bool) :
    hamming3 (a ^^ a') (b ^^ b') (c ^^ c') = (hamming3 a b c ^^ hamming3 a' b' c') := hamming1_xor ..

theorem overallParity_xor (cov : PCoverage) (h1 h2 h3 a b c d h1' h2' h3' a' b' c' d' : Bool) :
    overallParity cov (h1 ^^ h1') (h2 ^^ h2') (h3 ^^ h3') (a ^^ a') (b ^^ b') (c ^^ c') (d ^^ d') =
      (overallParity cov h1 h2 h3 a b c d ^^ overallParity cov h1' h2' h3' a' b' c' d') := by
  have := xor_commutative
  cases cov <;> simp only [overallParity] <;> ac_rfl

section
variable (a b : Codeword)

theorem cwAt_xor (i : Nat) : cwAt (a ^^^ b) i = (cwAt a i ^^ cwAt b i) := BitVec.getLsbD_xor

theorem syndrome1_xor : syndrome1 (a ^^^ b) = (syndrome1 a ^^ syndrome1 b) := by
  have := xor_commutative
  simp only [syndrome1, cwAt_xor, hamming1_xor]
  ac_rfl

theorem syndrome2_xor : syndrome2 (a ^^^ b) = (syndrome2 a ^^ syndrome2 b) := by
  have := xor_commutative
  simp only [syndrome2, cwAt_xor, hamming2_xor]
  ac_rfl

theorem syndrome3_xor : syndrome3 (a ^^^ b) = (syndrome3 a ^^ syndrome3 b) := by
  have := xor_commutative
  simp only [syndrome3, cwAt_xor, hamming3_xor]
  ac_rfl

/-- Step 1 passes the XOR of two words that it both passes or both does not (R102). -/
theorem parOk_xor (cov : PCoverage) : parOk cov (a ^^^ b) = (parOk cov a == parOk cov b) := by
  have interchange (p q p' q' : Bool) : ((p ^^ p') == (q ^^ q')) = ((p == q) == (p' == q')) := by
    revert p q p' q'; decide
  simp only [parOk, cwAt_xor, overallParity_xor, interchange]

theorem weightParity_xor : weightParity (a ^^^ b) = (weightParity a ^^ weightParity b) := by
  have := xor_commutative
  simp only [weightParity_eq_p_xor_all7, cwAt_xor, overallParity_xor]
  ac_rfl

end

/-! ### The parities of a codeword -/

/-- Settles O15: the XOR of the Hamming bits is D4, by which the two coverages differ. -/
theorem codewordParities : Obligations.CodewordParities := by
  intro d
  have hammingBits (cov : PCoverage) :
      (cwAt (encodeWord cov d) 1 ^^ cwAt (encodeWord cov d) 2 ^^ cwAt (encodeWord cov d) 3) = dbAt d 3 := by
    simpa using hamming_xor (dbAt d 0) (dbAt d 1) (dbAt d 2) (dbAt d 3)
  have p (cov : PCoverage) := cwAt_encodeWord_0 cov d
  refine ⟨hammingBits, ?_, ?_, parOk_all7_iff_even.1 (parOk_encodeWord .all7 d), ?_⟩
  · rw [p, overallParity_all7, hammingBits, Bool.xor_comm, overallParity, Bool.xor_assoc, Bool.xor_self, Bool.xor_false]
  · rw [p, overallParity]
  · rw [weightParity_eq_p_xor_all7, overallParity_all7, hammingBits, p, Bool.xor_left_comm]
    simp

/-- ENC is linear: the XOR of two codewords is the codeword of the XOR of their data. -/
theorem encodeWord_xor (cov : PCoverage) (a b : DataBlock) :
    encodeWord cov a ^^^ encodeWord cov b = encodeWord cov (a ^^^ b) := by
  have data (j : Nat) : dbAt (a ^^^ b) j = (dbAt a j ^^ dbAt b j) := BitVec.getLsbD_xor
  rw [← packCw_fields (encodeWord cov a ^^^ encodeWord cov b), encodeWord_eq_packCw_data cov (a ^^^ b)]
  simp only [cwAt_xor, cwAt_encodeWord_0, cwAt_encodeWord_1, cwAt_encodeWord_2, cwAt_encodeWord_3, cwAt_encodeWord_4,
    cwAt_encodeWord_5, cwAt_encodeWord_6, cwAt_encodeWord_7, data, hamming1_xor, hamming2_xor, hamming3_xor,
    overallParity_xor]

/-! ### The distance of two words -/

/-- The distance of two words is the weight of their XOR (R90). -/
theorem distance_eq_xor (a b : Codeword) : distance a b = distance 0x00#8 (a ^^^ b) := by
  simp [distance, cwAt]

/-- The distance of two codewords is the weight of the codeword of the XOR of their data (R90). -/
theorem distance_encodeWord (cov : PCoverage) (a b : DataBlock) :
    distance (encodeWord cov a) (encodeWord cov b) = distance 0x00#8 (encodeWord cov (a ^^^ b)) := by
  rw [distance_eq_xor, encodeWord_xor]

/-- The weights of the codewords of nonzero data (R90). -/
theorem weight_of_codeword (d : DataBlock) (h : d ≠ 0x0#4) :
    4 ≤ distance 0x00#8 (encodeWord .all7 d) ∧ 3 ≤ distance 0x00#8 (encodeWord .data4 d) := by
  revert d; decide

/-- Settles O16: the distances of a linear code are its weights. -/
theorem codewordDistances : Obligations.CodewordDistances := by
  refine ⟨fun a b hne => ?_, ⟨0x0#4, 0x1#4, by decide⟩, by decide, by decide, by decide⟩
  simp only [distance_encodeWord]
  exact weight_of_codeword _ (mt BitVec.xor_eq_zero_iff.1 hne)

/-! ### A codeword with an error -/

section
variable (cov : PCoverage) (d : DataBlock) (e : Codeword)

@[simp] theorem syndrome1_encodeWord : syndrome1 (encodeWord cov d) = false := by simp [syndrome1]
@[simp] theorem syndrome2_encodeWord : syndrome2 (encodeWord cov d) = false := by simp [syndrome2]
@[simp] theorem syndrome3_encodeWord : syndrome3 (encodeWord cov d) = false := by simp [syndrome3]

/-- The syndrome of a codeword with an error is that of the error (R107, R113). -/
theorem syndrome1_encodeWord_xor : syndrome1 (encodeWord cov d ^^^ e) = syndrome1 e := by simp [syndrome1_xor]
theorem syndrome2_encodeWord_xor : syndrome2 (encodeWord cov d ^^^ e) = syndrome2 e := by simp [syndrome2_xor]
theorem syndrome3_encodeWord_xor : syndrome3 (encodeWord cov d ^^^ e) = syndrome3 e := by simp [syndrome3_xor]

/-- Step 1 on a codeword with an error is Step 1 on the error (R107, R113). -/
theorem parOk_encodeWord_xor : parOk cov (encodeWord cov d ^^^ e) = parOk cov e := by
  simp [parOk_xor, parOk_encodeWord]

/-- What DEC answers on a codeword with an error is the data sent, XOR what it answers on the error. -/
theorem decodeWord_encodeWord_xor : decodeWord cov (encodeWord cov d ^^^ e) = d ^^^ decodeWord cov e := by
  simp only [decodeWord_eq_data_xor_mask, BitVec.extractLsb'_xor, encodeWord_data, parOk_encodeWord_xor,
    syndrome1_encodeWord_xor, syndrome2_encodeWord_xor, syndrome3_encodeWord_xor, BitVec.xor_assoc]

/-- The data sent is recovered exactly where DEC answers 0 on the error. -/
theorem decodeWord_encodeWord_xor_eq_iff :
    decodeWord cov (encodeWord cov d ^^^ e) = d ↔ decodeWord cov e = 0x0#4 := by
  simp [decodeWord_encodeWord_xor]

end

/-! ### The medium's error -/

/-- An inversion adds an error of one bit, whatever the word (R71). -/
theorem flipWord_eq_xor (c : Codeword) (i : Position) : flipWord c i = c ^^^ flipWord 0x00#8 i := by
  simp [flipWord]

/-- The medium adds an error that is the same for every word (R71). -/
theorem mediumWord_eq_xor (ps : List Position) (c : Codeword) : mediumWord ps c = c ^^^ mediumWord ps 0x00#8 := by
  induction ps generalizing c with
  | nil => exact BitVec.xor_zero.symm
  | cons i ps ih =>
    calc mediumWord (i :: ps) c
        = flipWord c i ^^^ mediumWord ps 0x00#8 := ih _
      _ = c ^^^ (flipWord 0x00#8 i ^^^ mediumWord ps 0x00#8) := by rw [flipWord_eq_xor, BitVec.xor_assoc]
      _ = c ^^^ mediumWord (i :: ps) 0x00#8 := congrArg (c ^^^ ·) (ih _).symm

/-- Settles O23: each fingerprint is that of an error of one bit. -/
theorem flipFingerprints : Obligations.FlipFingerprints := by
  intro cov d
  refine ⟨⟨parOk_encodeWord cov d, syndrome1_encodeWord cov d, syndrome2_encodeWord cov d, syndrome3_encodeWord cov d,
    encodeWord_data cov d⟩, fun i => ?_⟩
  simp only [flipWord_eq_xor (encodeWord cov d) i, parOk_encodeWord_xor, syndrome1_encodeWord_xor,
    syndrome2_encodeWord_xor, syndrome3_encodeWord_xor]
  revert i
  cases cov <;> decide

/-! ### At most one inversion -/

/-- One inversion of a codeword is corrected (R110). -/
theorem decodeWord_flipWord_encodeWord (cov : PCoverage) (d : DataBlock) (i : Position) :
    decodeWord cov (flipWord (encodeWord cov d) i) = d := by
  rw [flipWord_eq_xor, decodeWord_encodeWord_xor_eq_iff]
  revert i
  cases cov <;> decide

/-- Words at distance at most 1 are equal or one inversion apart (R71, R110). -/
theorem AtMostOneFlip.eq_or_eq_flipWord {sent received : Codeword} (h : AtMostOneFlip sent received) :
    received = sent ∨ ∃ i, received = flipWord sent i := by
  have smallErrors : ∀ e, distance 0x00#8 e ≤ 1 → e = 0x00#8 ∨ ∃ i, e = flipWord 0x00#8 i := by decide
  rw [AtMostOneFlip, distance_eq_xor] at h
  obtain hzero | ⟨i, hi⟩ := smallErrors _ h
  · exact .inl (BitVec.xor_eq_zero_iff.1 hzero).symm
  · refine .inr ⟨i, ?_⟩
    rw [flipWord_eq_xor, ← hi, ← BitVec.xor_assoc, BitVec.xor_self, BitVec.zero_xor]

/-- Settles O25: the received word is the codeword or one inversion of it, and both are decoded to the data sent. -/
theorem singleErrorsAreRecovered : Obligations.SingleErrorsAreRecovered := by
  intro s s' d hcov
  obtain ⟨t, ht, -, -, hencC⟩ := encodesTo_encodeWord s d
  refine ⟨t, _, ht, hencC, fun received hflip => decodesTo_iff.2 ?_⟩
  rw [hcov] at hflip
  obtain rfl | ⟨i, rfl⟩ := hflip.eq_or_eq_flipWord
  · exact decodeWord_encodeWord _ d
  · exact decodeWord_flipWord_encodeWord _ d i

/-! ### Two builds -/

/-- To the other build, a codeword whose D4 is 1 is one with an error in P (R85, R111). -/
theorem encodeWord_eq_xor_of_ne {cov cov' : PCoverage} (h : cov ≠ cov') (d : DataBlock) :
    encodeWord cov d = encodeWord cov' d ^^^ (if dbAt d 3 then flipWord 0x00#8 0 else 0x00#8) := by
  rw [encodeWord_of_ne h.symm]
  split <;> simp [flipWord]

/-- Settles O27: what is left is DEC's answer on an error in P, where D4 is 1, and at the position inverted. -/
theorem mismatchedBuildsFailExactlyThere : Obligations.MismatchedBuildsFailExactlyThere := by
  intro s s' d hcov
  obtain ⟨t, ht, -, -, hencC⟩ := encodesTo_encodeWord s d
  refine ⟨t, ht, ?_, fun i => ?_⟩
  · rw [hencC, decodesTo_iff, encodeWord_eq_xor_of_ne hcov, decodeWord_encodeWord_xor_eq_iff]
    generalize dbAt d 3 = d4
    revert d4
    cases s'.pCoverage <;> decide
  · rw [hencC, flipLevels_cwLevels, decodesTo_iff, flipWord_eq_xor, encodeWord_eq_xor_of_ne hcov, BitVec.xor_assoc,
      decodeWord_encodeWord_xor_eq_iff, show d.getLsbD 0 = dbAt d 3 from rfl]
    generalize dbAt d 3 = d4
    revert d4 i
    cases s'.pCoverage <;> decide

/-! ### More than one inversion -/

/-- An inversion changes the parity of a word's weight (R89). -/
theorem weightParity_flipWord (c : Codeword) (i : Position) : weightParity (flipWord c i) = !weightParity c := by
  have odd : weightParity (flipWord 0x00#8 i) = true := by revert i; decide
  rw [flipWord_eq_xor, weightParity_xor, odd, Bool.xor_true]

/-- An odd number of inversions changes the parity of a word's weight, and an even number keeps it (R112). -/
theorem weightParity_mediumWord (ps : List Position) (c : Codeword) :
    weightParity (mediumWord ps c) = (weightParity c ^^ decide (ps.length % 2 = 1)) := by
  induction ps generalizing c with
  | nil => simp [mediumWord]
  | cons i ps ih =>
    have rest : weightParity (mediumWord (i :: ps) c) = _ := ih (flipWord c i)
    rw [rest, weightParity_flipWord, List.length_cons]
    obtain h | h := Nat.mod_two_eq_zero_or_one ps.length <;> simp [Nat.add_mod, h]

/-- Settles O28: a codeword has even weight, an even number of inversions keeps that, and Step 1 passes it. -/
theorem evenFlipsPassUncorrected : Obligations.EvenFlipsPassUncorrected := by
  intro s s' t d ps hs hs' heven ht
  have hencC := (encodesTo_encodeWord s d).encC_eq ht
  rw [hs] at hencC
  have weight : weightParity (mediumWord ps (encodeWord .all7 d)) = false := by
    simp [weightParity_mediumWord, parOk_all7_iff_even.1 (parOk_encodeWord .all7 d), heven]
  rw [hencC, mediumLevels_cwLevels]
  refine ⟨_, rfl, decodesTo_iff.2 ?_⟩
  rw [hs']
  exact decodeWord_of_parOk (parOk_all7_iff_even.2 weight)

/-- Whether the medium's inversions lead to a wrong result does not depend on the data sent. -/
theorem decodeWord_mediumWord_bne (cov : PCoverage) (d : DataBlock) (ps : List Position) :
    (decodeWord cov (mediumWord ps (encodeWord cov d)) != d) = (decodeWord cov (mediumWord ps 0x00#8) != 0x0#4) := by
  rw [mediumWord_eq_xor, Bool.eq_iff_iff, bne_iff_ne, bne_iff_ne, Ne, decodeWord_encodeWord_xor_eq_iff]

/-- Settles O29: 22 of the 28 double errors and, by build, 56 or 55 of the 56 triple errors are answered wrongly, for
each of the 16 data blocks. -/
theorem multipleFlipCounts : Obligations.MultipleFlipCounts := by
  have double (cov d i j) : (decodeWord cov (flipWord (flipWord (encodeWord cov d) i) j) != d) =
      (decodeWord cov (flipWord (flipWord 0x00#8 i) j) != 0x0#4) := decodeWord_mediumWord_bne cov d [i, j]
  have triple (cov d i j k) : (decodeWord cov (flipWord (flipWord (flipWord (encodeWord cov d) i) j) k) != d) =
      (decodeWord cov (flipWord (flipWord (flipWord 0x00#8 i) j) k) != 0x0#4) :=
    decodeWord_mediumWord_bne cov d [i, j, k]
  simp only [Obligations.MultipleFlipCounts, double, triple, List.map_const', List.length_finRange, List.sum_replicate]
  refine ⟨fun cov => ?_, fun cov => ?_⟩ <;> cases cov <;> decide

/-! ### The form of the result -/

/-- The chain of R105 as a sum of products: each product is one row's condition (R106). -/
theorem correct_eq_sumOfProducts (ok s1 s2 s3 d1 d2 d3 d4 : Bool) :
    correct ok s1 s2 s3 d1 d2 d3 d4 =
      packDb (d1 ^^ (!ok && s1 && s2 && !s3)) (d2 ^^ (!ok && s1 && !s2 && s3)) (d3 ^^ (!ok && !s1 && s2 && s3))
        (d4 ^^ (!ok && s1 && s2 && s3)) := by
  revert ok s1 s2 s3 d1 d2 d3 d4; decide

/-- Settles O22: the chain and the sum of products agree on all their inputs. -/
theorem decodeEqualsSumOfProducts : Obligations.DecodeEqualsSumOfProducts := by
  rintro s r e s1 s2 s3 rfl rfl rfl rfl
  have completes := decodesTo_decodeWord s r
  rw [decodeWord, correct_eq_sumOfProducts, dbLevels_packDb] at completes
  exact completes

/-- No row of R105 inverts more than one bit (R114). -/
theorem correctionMask_countP_le_one (s1 s2 s3 : Bool) :
    (List.range 4).countP (correctionMask s1 s2 s3).getLsbD ≤ 1 := by
  revert s1 s2 s3; decide

/-- A mask on the data bits changes as many of them as it has bits (R114). -/
theorem countP_data_xor_bne (r : Codeword) (m : DataBlock) :
    (List.range 4).countP (fun j => (r.extractLsb' 0 4 ^^^ m).getLsbD j != r.getLsbD j) =
      (List.range 4).countP m.getLsbD := by
  refine List.countP_congr fun j hj => ?_
  have hdata : (r.extractLsb' 0 4 ^^^ m).getLsbD j = (r.getLsbD j ^^ m.getLsbD j) := by
    simp [List.mem_range.1 hj]
  rw [hdata]
  cases r.getLsbD j <;> simp

/-- Settles O30: the result is the data as received, or differs from it by one row's mask. -/
theorem atMostOneDataBitChanges : Obligations.AtMostOneDataBitChanges := by
  intro s r
  refine ⟨_, decodesTo_decodeWord s r, ?_, fun hne => Bool.eq_false_iff.2 (mt decodeWord_of_parOk hne)⟩
  rw [decodeWord_eq_data_xor_mask, countP_data_xor_bne]
  split
  · decide
  · exact correctionMask_countP_le_one ..

end Sys2Proof.Machine
end

section
/-!
PROOFS. The two units side by side in one block: O17, O24, O26, O31, O32, O34, O35, O37.
-/

namespace Sys2Proof.Machine

/-! ### The input of DEC -/

section
variable {s : State}

@[simp] theorem decInput_host (h : s.link = none) (c : CwLevels) : decInput s c = s.decR := by simp [decInput, h]

@[simp] theorem decInput_link {ps : List Position} (h : s.link = some ps) (c : CwLevels) :
    decInput s c = mediumLevels ps c := by simp [decInput, h]

/-- A settled DEC that the host drives (R154). -/
theorem refresh_decQ_host {r : Codeword} (hlink : s.link = none) (hwait : s.decWait = 0) (hr : s.decR = cwLevels r) :
    (refresh s).decQ = dbLevels (decodeWord s.pCoverage r) :=
  decOutput_settled (decInputSteady_host hlink) hwait ((decInput_host hlink _).trans hr)

/-- A `dec_r` that a settled ENC drives through the medium (R71, R155). -/
theorem refresh_decR_link {ps : List Position} {d : DataBlock} (hlink : s.link = some ps) (hencWait : s.encWait = 0)
    (hd : s.encD = dbLevels d) : (refresh s).decR = cwLevels (mediumWord ps (encodeWord s.pCoverage d)) := by
  rw [refresh_decR, decInput_link hlink, encOutput_settled hencWait hd, mediumLevels_cwLevels]

/-- A settled DEC that a settled ENC drives through the medium (R155). -/
theorem refresh_decQ_link {ps : List Position} {d : DataBlock} (hlink : s.link = some ps) (hencWait : s.encWait = 0)
    (hdecWait : s.decWait = 0) (hd : s.encD = dbLevels d) :
    (refresh s).decQ = dbLevels (decodeWord s.pCoverage (mediumWord ps (encodeWord s.pCoverage d))) :=
  decOutput_settled (decInputSteady_link hencWait hd) hdecWait (refresh_decR_link hlink hencWait hd)

end

/-! ### Frames -/

/-- Settles O17: ENCODE writes `enc_d` alone; a settled `dec_q` is then DEC's function of the `dec_r` that stayed. -/
theorem encodeFrame : Obligations.EncodeFrame := by
  intro s t l hs ht
  cases (exec_encode l s).symm.trans ht
  refine ⟨rfl, rfl, rfl, rfl, rfl, ?_, fun hlink => ⟨decInput_host hlink _, fun hwait hbin => ?_⟩,
    fun ps hlink => decInput_link hlink _⟩
  · intro hsame
    have kept : (driveEnc l s).decWait = s.decWait := by obtain h | h := hsame <;> simp [h]
    exact kept ▸ Nat.sub_le _ _
  · obtain ⟨r, hr⟩ := cwLevels_binary_iff.1 hbin
    rw [hs.decFollows hwait (.inl hlink) r hr]
    exact refresh_decQ_host hlink (by simp [hlink, hwait]) hr

/-- Settles O24: DECODE writes `dec_r` alone; a settled `enc_c` is then ENC's function of the `enc_d` that stayed. -/
theorem decodeFrame : Obligations.DecodeFrame := by
  intro s t l hs ht
  cases (exec_decode l s).symm.trans ht
  refine ⟨rfl, rfl, rfl, rfl, rfl, rfl, Nat.sub_le _ _, fun hwait hbin => ?_⟩
  obtain ⟨d, hd⟩ := dbLevels_binary_iff.1 hbin
  rw [hs.encFollows hwait d hd]
  exact encOutput_settled (by simp [hwait]) hd

/-! ### Every operand -/

/-- A 4-bit port that is not binary carries no data block (R134). -/
theorem dbWord_of_nonBinary {l : DbLevels} (h : l.binary = false) : dbWord l = none := by
  refine Option.eq_none_iff_forall_ne_some.2 fun d hd => ?_
  rw [dbLevels_binary_iff.2 ⟨d, dbWord_eq_some.1 hd⟩] at h
  cases h

/-- An 8-bit port that is not binary carries no word (R134). -/
theorem cwWord_of_nonBinary {l : CwLevels} (h : l.binary = false) : cwWord l = none := by
  refine Option.eq_none_iff_forall_ne_some.2 fun r hr => ?_
  rw [cwLevels_binary_iff.2 ⟨r, cwWord_eq_some.1 hr⟩] at h
  cases h

/-- Settles O31: a port that is not binary carries no word, so the unit draws the free value of the moment. -/
theorem nonBinaryInputLeavesTheOutputOpen : Obligations.NonBinaryInputLeavesTheOutputOpen :=
  ⟨fun s l hl => ⟨_, exec_encode l s, rfl, encOutput_nonBinary (dbWord_of_nonBinary hl), Nat.lt_succ_self _⟩,
    fun s l hl => ⟨_, exec_decode l s, rfl, decOutput_nonBinary (cwWord_of_nonBinary hl), Nat.lt_succ_self _⟩⟩

/-- Settles O32: both operations answer a next state for every operand, and the unit's word for a binary one. -/
theorem everyOperationCompletes : Obligations.EveryOperationCompletes := by
  refine ⟨fun s l => ⟨_, exec_encode l s, rfl, fun hl => ?_⟩, fun s l => ⟨_, exec_decode l s, rfl, fun hl => ?_⟩⟩
  · obtain ⟨d, rfl⟩ := dbLevels_binary_iff.1 hl
    exact ⟨_, (encodesTo_encodeWord s d).encC_eq (exec_encode _ s)⟩
  · obtain ⟨r, rfl⟩ := cwLevels_binary_iff.1 hl
    exact ⟨_, (decodesTo_decodeWord s r).decQ_eq (exec_decode _ s)⟩

/-! ### Both units at work -/

/-- No operation changes the build (R25). -/
theorem exec_pCoverage {i : Instr} {s t : State} (h : exec i s = .next t) : t.pCoverage = s.pCoverage := by
  obtain ⟨b, hb, hnext⟩ := exec_moves i s
  cases h.symm.trans hnext
  rw [refresh_pCoverage, hb.pCoverage_eq]

/-- DECODE leaves a settled ENC and its output as they are (R143). -/
theorem exec_decode_keeps_enc {s t : State} {l : CwLevels} {d : DataBlock} (ht : exec (.decode l) s = .next t)
    (hwait : s.encWait = 0) (hd : s.encD = dbLevels d) :
    t.encD = dbLevels d ∧ t.encC = cwLevels (encodeWord s.pCoverage d) := by
  cases (exec_decode l s).symm.trans ht
  exact ⟨hd, encOutput_settled (by simp [hwait]) hd⟩

/-- ENCODE leaves a settled DEC that the host drives, and its output, as they are (R143). -/
theorem exec_encode_keeps_dec {s t : State} {l : DbLevels} {r : Codeword} (ht : exec (.encode l) s = .next t)
    (hlink : s.link = none) (hwait : s.decWait = 0) (hr : s.decR = cwLevels r) :
    t.decR = cwLevels r ∧ t.decQ = dbLevels (decodeWord s.pCoverage r) := by
  cases (exec_encode l s).symm.trans ht
  exact ⟨(decInput_host hlink _).trans hr, refresh_decQ_host hlink (by simp [hlink, hwait]) hr⟩

/-- Settles O34: the operation that comes second finds the other unit settled, and leaves it so. DECODE leaves `dec_r`
to the host, so ENCODE after it does not reach DEC. -/
theorem eitherOrderGivesTheSamePorts : Obligations.EitherOrderGivesTheSamePorts := by
  intro s d r
  obtain ⟨a, ha, haD, haWait, -⟩ := encodesTo_encodeWord s d
  obtain ⟨b, hb, hbR, -, -, hbQ⟩ := decodesTo_decodeWord a r
  obtain ⟨a', ha', haR', haLink', haWait', -⟩ := decodesTo_decodeWord s r
  obtain ⟨b', hb', hbD', -, hbC'⟩ := encodesTo_encodeWord a' d
  obtain ⟨hbD, hbC⟩ := exec_decode_keeps_enc hb haWait haD
  obtain ⟨hbR', hbQ'⟩ := exec_encode_keeps_dec hb' haLink' haWait' haR'
  rw [exec_pCoverage ha] at hbQ hbC
  rw [exec_pCoverage ha'] at hbQ' hbC'
  exact ⟨a, b, a', b', ha, hb, ha', hb', hbD, hbR, hbC, hbQ, hbD'.trans hbD.symm, hbC'.trans hbC.symm,
    hbR'.trans hbR.symm, hbQ'.trans hbQ.symm⟩

@[simp] theorem after_connect {ps : List Position} {acts : List HostAction} {s t : State} :
    After (.connect ps :: acts) s t ↔ After acts (refresh (connectLink ps s)) t := Iff.rfl

@[simp] theorem after_settle {acts : List HostAction} {s t : State} :
    After (.settle :: acts) s t ↔ After acts (refresh (settleBoth s)) t := Iff.rfl

/-- Settles O35: waiting settles both units, and the host drives `dec_r`. -/
theorem bothUnitsAtOnce : Obligations.BothUnitsAtOnce := fun _ _ _ =>
  ⟨_, after_drive.2 (after_settle.2 (after_nil.2 rfl)), encOutput_settled rfl rfl, refresh_decQ_host rfl rfl rfl⟩

/-! ### ENC driving DEC through the medium -/

/-- A medium that inverts at most one position leaves the data recoverable (R110). -/
theorem decodeWord_mediumWord_of_length_le_one (cov : PCoverage) (d : DataBlock) {ps : List Position}
    (h : ps.length ≤ 1) : decodeWord cov (mediumWord ps (encodeWord cov d)) = d := by
  match ps, h with
  | [], _ => exact decodeWord_encodeWord cov d
  | [i], _ => exact decodeWord_flipWord_encodeWord cov d i

/-- Settles O26: once both have settled, DEC answers on the codeword with at most one inversion. -/
theorem directLinkReturnsTheData : Obligations.DirectLinkReturnsTheData := by
  intro s d ps hlen
  refine ⟨_, after_connect.2 (after_drive.2 (after_settle.2 (after_nil.2 rfl))), rfl, rfl, ?_⟩
  rw [refresh_decQ_link rfl rfl rfl rfl, decodeWord_mediumWord_of_length_le_one _ _ hlen]

/-- Settles O37: the change of `enc_d` puts both delays before `dec_q`, and `T_PD_ENC` before `enc_c`. -/
theorem directDriveSettlesAfterBothDelays : Obligations.DirectDriveSettlesAfterBothDelays := by
  intro s d ps n hchange
  refine ⟨_, after_connect.2 (after_drive.2 (after_elapse.2 (after_nil.2 rfl))), fun hopen => ?_, fun hpast => ?_⟩
  · have hdecWait : Config.tPdEnc + Config.tPdDec - n ≠ 0 := by omega
    exact decOutput_unsettled (by simpa [hchange] using hdecWait)
  · have hencWait : Config.tPdEnc - n = 0 := by omega
    have hdecWait : Config.tPdEnc + Config.tPdDec - n = 0 := by omega
    exact ⟨refresh_decR_link rfl (by simp [hchange, hencWait]) rfl,
      refresh_decQ_link rfl (by simp [hchange, hencWait]) (by simp [hchange, hdecWait]) rfl⟩

end Sys2Proof.Machine
end

section
/-!
PROOFS. The host's calls, reads and medium (R63, R70, R71): O38, O39, O41, O42.
-/

namespace Sys2Proof.Machine

/-! ### Calls -/

/-- An action whose argument has a text goes on with it (R70). -/
theorem withArg_of_argText {arg : HostArg} {s : State} {x : Text} (h : argText arg s = some x)
    (k : Text → Host.Outcome State Fault Refusal) : withArg arg s k = k x := by
  obtain ⟨y, hy, hrun⟩ | ⟨v, rfl, hv, -⟩ := withArg_cases arg s k
  · cases hy.symm.trans h
    exact hrun
  · cases hv.symm.trans h

/-- Settles O38: the argument's text is the operation's, and the call keeps what the operation leaves. -/
theorem stepRunsTheDecodedCall : Obligations.StepRunsTheDecodedCall := by
  intro s t dst u arg rest x i hp hx hi ht
  have hx' : argText arg { s with pending := rest } = some x := hx
  rw [step_of_pending hp, runAction, withArg_of_argText hx', runCall_of_decode dst hi ht]

/-- A call that keeps no result is its operation. -/
theorem runCall_none {u : UnitId} {x : Text} {i : Instr} {s : State} (hx : decode u x = .ok i) :
    runCall none u x s = exec i s := by
  obtain ⟨b, -, ht⟩ := exec_moves i s
  rw [runCall_of_decode none hx ht, ht, keepResult_none]

/-- A step on a placed word of the table is the operation of the word's text (logs 1, 2). -/
theorem step_withFetchWord {s : State} {nbits w : Nat} {i : Instr}
    (h : decode (unitOfWidth nbits) (textOfNat nbits w) = .ok i) : step (s.withFetchWord nbits w) = exec i s := by
  have hp : (s.withFetchWord nbits w).pending = tableCall nbits w :: s.pending := rfl
  rw [step_call_lit hp, runCall_none h]
  rfl

/-- Settles O39: the text of the word placed is the text of its operation. -/
theorem stepRunsTheTableWord : Obligations.StepRunsTheTableWord :=
  ⟨fun _ d => step_withFetchWord (textOfNat_toNat_db d ▸ decode_dbText d),
    fun _ r => step_withFetchWord (textOfNat_toNat_cw r ▸ decode_cwText r)⟩

/-! ### The medium on a text -/

@[simp] theorem flipSymbol_levelSymbol (l : Level) : flipSymbol (levelSymbol l) = levelSymbol (flipLevel l) := by
  cases l <;> rfl

/-- The medium inverts the same position of a port's levels and of their text (R63, R71). -/
theorem flipText_cwText (l : CwLevels) (i : Position) : flipText (cwText l) i = cwText (flipLevels l i) := by
  fin_cases i <;> simp [flipText, cwText, flipLevels]

theorem mediumText_cwText (ps : List Position) (l : CwLevels) :
    mediumText ps (cwText l) = cwText (mediumLevels ps l) := by
  induction ps generalizing l with
  | nil => rfl
  | cons i ps ih => simpa [mediumText, mediumLevels, flipText_cwText] using ih (flipLevels l i)

/-! ### Actions that only set a variable -/

/-- From `s` to `t` one variable takes a text, and no port is driven; a joined `dec_r` follows `enc_c`. Tied to the
model by `setsOnly_refresh_setVar`. -/
structure SetsOnly (v : HostVar) (x : Text) (s t : State) : Prop where
  value : readVar v t = some x
  otherVars : ∀ w, w ≠ v → readVar w t = readVar w s
  pending : t.pending = s.pending
  encD : t.encD = s.encD
  encWait : t.encWait = s.encWait
  decWait : t.decWait = s.decWait
  link : t.link = s.link
  decR_host : s.link = none → t.decR = s.decR
  decR_joined : ∀ ps, s.link = some ps → t.decR = mediumLevels ps t.encC

theorem setsOnly_refresh_setVar (v : HostVar) (x : Text) (s : State) : SetsOnly v x s (refresh (setVar v x s)) where
  value := by simp
  otherVars w hw := by rw [readVar_refresh, readVar_setVar_other s w v x hw]
  pending := setVar_pending s v x
  encD := setVar_encD s v x
  encWait := setVar_encWait s v x
  decWait := setVar_decWait s v x
  link := setVar_link s v x
  decR_host hlink := by simp [hlink]
  decR_joined ps hlink := decInput_link ((setVar_link s v x).trans hlink) _

/-- A flip of a codeword-format word keeps the text of the word that the medium makes of it (R71). -/
theorem runFlip_cwText (v : HostVar) (ps : List Position) (c : Codeword) (s : State) :
    runFlip v ps (cwText (cwLevels c)) s = .next (refresh (setVar v (cwText (cwLevels (mediumWord ps c))) s)) := by
  have hlen : (cwText (cwLevels c)).length = 8 := rfl
  rw [runFlip, if_pos hlen, mediumText_cwText, mediumLevels_cwLevels]

/-- Settles O41: on words and levels an inversion is XOR with one bit, and on the text that the host keeps it is the
same inversion of the symbol. -/
theorem mediumInvertsThePositions : Obligations.MediumInvertsThePositions := by
  refine ⟨cwAt_flipWord, fun c => ⟨rfl, rfl⟩, fun c ps => mediumLevels_cwLevels ps c, fun s v c ps rest hp => ?_⟩
  have hsets := setsOnly_refresh_setVar v (cwText (cwLevels (mediumWord ps c))) { s with pending := rest }
  exact ⟨_, (step_of_pending hp).trans (runFlip_cwText v ps c _), hsets.pending, hsets.encD, hsets.link, hsets.encWait,
    hsets.decWait, hsets.decR_host, hsets.decR_joined, hsets.otherVars, hsets.value⟩

/-- Settles O42: the text kept is that of the port before the action, and the action only sets the variable. -/
theorem sampleReadsThePortNow : Obligations.SampleReadsThePortNow := by
  intro s v u rest hp
  have hsets := setsOnly_refresh_setVar v (outputText u s) { s with pending := rest }
  exact ⟨_, step_of_pending hp, hsets.value, hsets.pending, hsets.encD, hsets.encWait, hsets.decWait, hsets.link,
    hsets.decR_host, hsets.decR_joined, hsets.otherVars⟩

end Sys2Proof.Machine
end
